-- ==== Sys2Proof/Word.lean ====
section
/-! DEFINITION. The words of the block (spec/00_scope.md R8: a byte is 8 bits; `uN` are unsigned integers of N bits).
No value in the block is signed. -/

namespace Sys2Proof

/-- A byte: 8 bits (R8). -/
abbrev Byte := BitVec 8

/-- `u16`: the accumulator, `CFG`, 16-bit fields (R8, R21). -/
abbrev Word16 := BitVec 16

/-- `u32`: `STATUS`, 32-bit fields (R8, R21). -/
abbrev Word32 := BitVec 32

/-- `u48`: `S` and `Q` (R21). -/
abbrev Word48 := BitVec 48

/-- A command word: 40 bits (spec/30_encoding.md R76). -/
abbrev CommandWord := BitVec 40

end Sys2Proof
end

