-- ==== Sys2Proof/Machine/Crc.lean ====
section
/-! DEFINITION. The CRC16 engine's functions (spec/40_crc.md R100 to R105), pure functions of words and byte lists. -/

namespace Sys2Proof.Machine

/-- The constant applied after a right shift (R100, spec/00_scope.md R7 `CRC_POLY`). -/
def crcPoly : Word16 := 0xA001

/-- The initial value (R102, R7 `CRC_INIT`). -/
def crcInit : Word16 := 0xFFFF

/-- Bit step (R100): the test is on bit 0 before the shift. -/
def crcBit (a : Word16) : Word16 :=
  if a.getLsbD 0 then (a >>> 1) ^^^ crcPoly else a >>> 1

/-- `n` bit steps. -/
def crcBits : Nat → Word16 → Word16
  | 0, a => a
  | n + 1, a => crcBits n (crcBit a)

/-- Byte step (R101): eight bit steps on the accumulator with the byte exclusive-ored into its low half. -/
def crcByte (a : Word16) (b : Byte) : Word16 :=
  crcBits 8 (a ^^^ b.setWidth 16)

/-- The left fold of the byte step (R102), from any accumulator. -/
def crcFold (a : Word16) (bytes : List Byte) : Word16 :=
  bytes.foldl crcByte a

/-- The checksum of a byte sequence (R102). "Input: any non-empty byte sequence": the empty sequence has none
(R107 (c), spec/93_implementation_defined.md U1). -/
def crc16 (bytes : List Byte) : Option Word16 :=
  match bytes with
  | [] => none
  | _ :: _ => some (crcFold crcInit bytes)

/-- The low byte of a checksum, `c[7:0]`. -/
def crcLow (c : Word16) : Byte := c.extractLsb' 0 8

/-- The high byte of a checksum, `c[15:8]`. -/
def crcHigh (c : Word16) : Byte := c.extractLsb' 8 8

/-- The trailer of a checksum: the low byte first (R105). -/
def trailer (c : Word16) : List Byte := [crcLow c, crcHigh c]

/-- `crc_ok` (R105): at least three bytes, the last two being the trailer of the checksum of the others. -/
def crcOk (frame : List Byte) : Bool :=
  decide (3 ≤ frame.length) &&
    match crc16 (frame.take (frame.length - 2)) with
    | none => false
    | some c => frame.drop (frame.length - 2) == trailer c

end Sys2Proof.Machine
end

