-- ==== Sys2Proof/Config.lean ====
section
/-! DEFINITION. The one parameter the spec leaves to a configuration of the block: `RXMAX`, the size of the RX buffer
(spec/00_scope.md R7, spec/92_eei_decisions.md D9). The host's timing and payload parameters of R7 are read by no rule of
the block; only the payload's rounding mode, which the host's payload needs (spec/60_exceptions.md R196), stands here, as a
free function. -/

namespace Sys2Proof.Config

/-- The admitted sizes of the RX buffer, each by what it exceeds 25: "any value with 25 ≤ RXMAX ≤ 255" (R7). -/
abbrev RxSize := Fin 231

/-- `RXMAX` in bytes (R7). -/
def RxSize.bytes (n : RxSize) : Nat := 25 + n.val

/-- "default 32" (R7). -/
def RxSize.default32 : RxSize := 7

/-- `PAYLOAD_ROUND` (R7: "OPEN, outside the block"): the host's rounding to a number of decimals, in a mode the document does
not give. Free: nothing constrains it (log 22). -/
opaque payloadRound : Nat → Rat → Rat

end Sys2Proof.Config
end

