-- ==== Sys2Proof/Syntax.lean ====
section
/-! DEFINITION. The rows of spec/opcode_table.json as syntax: nine commands (spec/30_encoding.md R77) and the three wire
formats the table lists beside them (R70, R72). Operands are the fields the row gives, at their widths. -/

namespace Sys2Proof

/-- The fields of a request frame that are not fixed (R70). The function code is 0x04 and no operand. -/
structure RequestFrame where
  addr  : Byte
  start : Word16
  count : Word16
  crcLo : Byte
  crcHi : Byte
  deriving DecidableEq, Repr

/-- The fields of the 11-byte response, in wire order (R72). Each 16-bit field is one register, high byte first; a 32-bit
field is its low register and then its high register (spec/20_memory.md R53). -/
structure ResponseN3 where
  header : BitVec 24
  volt   : Word16
  currLo : Word16
  currHi : Word16
  crcLo  : Byte
  crcHi  : Byte
  deriving DecidableEq, Repr

/-- The fields of the 25-byte response, in wire order (R72). -/
structure ResponseN10 where
  header   : BitVec 24
  volt     : Word16
  currLo   : Word16
  currHi   : Word16
  powerLo  : Word16
  powerHi  : Word16
  energyLo : Word16
  energyHi : Word16
  freq     : Word16
  factor   : Word16
  tenth    : Word16
  crcLo    : Byte
  crcHi    : Byte
  deriving DecidableEq, Repr

/-- One constructor per row of spec/opcode_table.json. -/
inductive Instr where
  /-- CRCINIT: start a checksum (spec/40_crc.md R103). -/
  | crcinit
  /-- CRCBYTE b: fold one byte into the checksum (R104). -/
  | crcbyte (b : Byte)
  /-- SETADDR a: set the device address (spec/41_request.md R121). -/
  | setaddr (a : Byte)
  /-- SETCRCEN e: set the response-CRC policy (R122). -/
  | setcrcen (e : BitVec 1)
  /-- BUILDREQ start, count: build the request frame (R123). -/
  | buildreq (start count : Word16)
  /-- RXCLR: empty the RX buffer (spec/42_decode.md R136). -/
  | rxclr
  /-- RXPUSH b: append one received byte (R137). -/
  | rxpush (b : Byte)
  /-- DECODE n: validate and decode the response (R138). -/
  | decode (n : Word16)
  /-- DERIVE: apparent and reactive power (spec/43_scale_derive.md R169). -/
  | derive
  /-- REQUEST_FRAME: the 8 bytes on the wire to the device (spec/30_encoding.md R70). -/
  | requestFrame (f : RequestFrame)
  /-- RESPONSE_N10: the 25 bytes on the wire from the device (R72). -/
  | responseN10 (r : ResponseN10)
  /-- RESPONSE_N3: the 11 bytes on the wire from the device (R72). -/
  | responseN3 (r : ResponseN3)
  deriving DecidableEq, Repr

end Sys2Proof
end

