-- ==== Sys2Proof/Machine/Frames.lean ====
section
/-! DEFINITION. The wire frames as byte lists, byte 0 first: the request (spec/30_encoding.md R70, R71,
spec/41_request.md R120) and the two response layouts (R72). -/

namespace Sys2Proof.Machine

/-- The hardwired function code, "read input registers" (spec/10_state.md R29). -/
def funcCode : Byte := 0x04

/-- The two bytes of a 16-bit field, high byte first (spec/20_memory.md R51). -/
def wordBytes (w : Word16) : List Byte := [w.extractLsb' 8 8, w.extractLsb' 0 8]

/-- The 6-byte body of a request (R120). -/
def requestBody (addr : Byte) (start count : Word16) : List Byte :=
  [addr, funcCode] ++ wordBytes start ++ wordBytes count

/-- The checksum of a request's body (R120). The body is never empty. -/
def requestCrc (addr : Byte) (start count : Word16) : Word16 :=
  crcFold crcInit (requestBody addr start count)

/-- `build_request` (R120): the body and its trailer, low byte first. -/
def buildRequest (addr : Byte) (start count : Word16) : List Byte :=
  requestBody addr start count ++ trailer (requestCrc addr start count)

/-- The 8 bytes of a request frame with the fields given, byte 0 first (R70). -/
def requestFrameBytes (f : RequestFrame) : List Byte :=
  requestBody f.addr f.start f.count ++ [f.crcLo, f.crcHi]

/-- The three header bytes of a response (spec/20_memory.md R58). -/
def headerBytes (h : BitVec 24) : List Byte :=
  [h.extractLsb' 16 8, h.extractLsb' 8 8, h.extractLsb' 0 8]

/-- The 11 bytes of a three-register response (R72). -/
def responseN3Bytes (r : ResponseN3) : List Byte :=
  headerBytes r.header ++ wordBytes r.volt ++ wordBytes r.currLo ++ wordBytes r.currHi ++ [r.crcLo, r.crcHi]

/-- The 25 bytes of a ten-register response (R72). -/
def responseN10Bytes (r : ResponseN10) : List Byte :=
  headerBytes r.header ++ wordBytes r.volt ++ wordBytes r.currLo ++ wordBytes r.currHi
    ++ wordBytes r.powerLo ++ wordBytes r.powerHi ++ wordBytes r.energyLo ++ wordBytes r.energyHi
    ++ wordBytes r.freq ++ wordBytes r.factor ++ wordBytes r.tenth ++ [r.crcLo, r.crcHi]

end Sys2Proof.Machine
end

