-- ==== Sys2Proof/WellFormed.lean ====
section
/-! DEFINITION. Which terms of the syntax stand for something the spec admits. The operands' widths are in their types, so
every command term has an encoding. A request frame is one of the protocol only if its count is at least 1
(spec/41_request.md R120) and its last two bytes are the checksum of its first six, low byte first
(spec/30_encoding.md R70). -/

namespace Sys2Proof

/-- "count ≥ 1" (R120). -/
def RequestFrame.countOk (f : RequestFrame) : Bool := f.count != 0

/-- `crc_lo` and `crc_hi` are the low and the high byte of crc16(bytes 0 to 5) (R70). -/
def RequestFrame.trailerOk (f : RequestFrame) : Bool :=
  f.crcLo == Machine.crcLow (Machine.requestCrc f.addr f.start f.count) &&
    f.crcHi == Machine.crcHigh (Machine.requestCrc f.addr f.start f.count)

/-- Well-formed instructions. Every operand of a command is admitted (spec/30_encoding.md R77, R78: "Operand values that
are encodable but outside a command's contract are not illegal encodings"); no bit of a response is fixed (R72). -/
def Instr.wellFormed : Instr → Bool
  | .crcinit => true
  | .crcbyte _ => true
  | .setaddr _ => true
  | .setcrcen _ => true
  | .buildreq _ _ => true
  | .rxclr => true
  | .rxpush _ => true
  | .decode _ => true
  | .derive => true
  | .requestFrame f => f.countOk && f.trailerOk
  | .responseN10 _ => true
  | .responseN3 _ => true

end Sys2Proof
end

