-- ==== Sys2Proof/Decode.lean ====
section
/-! DEFINITION. Decoding and encoding: the command word (spec/30_encoding.md R76 to R79) and the wire layouts (R70, R72).
A command word is decoded by its row's match and mask alone (R77, R79); a wire frame by its length, and a request by its
fixed function code (R70). Everything else is rejected by name (R78, R73). -/

namespace Sys2Proof

/-- Why bits are no instruction. -/
inductive DecodeError where
  /-- `op` is none of the nine (R78). -/
  | unknownOp (op : Byte)
  /-- `op` is listed and a bit of `arg` that must be 0 is 1 (R78). -/
  | reservedArg (op : Byte)
  /-- No layout has this many bytes (R70, R72, R76). -/
  | noLayout (length : Nat)
  /-- A request-length frame whose function code is not 0x04 (R73). -/
  | functionCode (func : Byte)
  deriving DecidableEq, Repr

/-- `op`, bits 39:32 (R76). -/
def opField (w : CommandWord) : Byte := w.extractLsb' 32 8

/-- The byte operand, `arg[7:0]` (R77). -/
def byteField (w : CommandWord) : Byte := w.extractLsb' 0 8

/-- `count` or `n`, `arg[15:0]` (R77). -/
def lowField (w : CommandWord) : Word16 := w.extractLsb' 0 16

/-- `start`, `arg[31:16]` (R77). -/
def highField (w : CommandWord) : Word16 := w.extractLsb' 16 16

/-- One row of the opcode map (R77): the word's fixed bits, which bits are fixed, and the command of a word that fits. -/
structure CommandRow where
  fixed : CommandWord
  mask  : CommandWord
  build : CommandWord → Instr

/-- The opcode map (R77), in the table's order. -/
def commandRows : List CommandRow :=
  [ ⟨0x0100000000, 0xFFFFFFFFFF, fun _ => .crcinit⟩,
    ⟨0x0200000000, 0xFFFFFFFF00, fun w => .crcbyte (byteField w)⟩,
    ⟨0x1000000000, 0xFFFFFFFF00, fun w => .setaddr (byteField w)⟩,
    ⟨0x1100000000, 0xFFFFFFFFFE, fun w => .setcrcen (w.extractLsb' 0 1)⟩,
    ⟨0x1200000000, 0xFF00000000, fun w => .buildreq (highField w) (lowField w)⟩,
    ⟨0x2000000000, 0xFFFFFFFFFF, fun _ => .rxclr⟩,
    ⟨0x2100000000, 0xFFFFFFFF00, fun w => .rxpush (byteField w)⟩,
    ⟨0x2200000000, 0xFFFFFF0000, fun w => .decode (lowField w)⟩,
    ⟨0x3000000000, 0xFFFFFFFFFF, fun _ => .derive⟩ ]

/-- "a word w selects the command when w & mask = match" (R77). -/
def CommandRow.selects (w : CommandWord) (r : CommandRow) : Bool := w &&& r.mask == r.fixed

/-- Does some row have this `op`? It only names the error. -/
def knownOp (op : Byte) : Bool := commandRows.any (fun r => opField r.fixed == op)

/-- Decode a command word (R77, R78). -/
def decodeCommand (w : CommandWord) : Except DecodeError Instr :=
  match commandRows.find? (CommandRow.selects w) with
  | some r => .ok (r.build w)
  | none => .error (if knownOp (opField w) then .reservedArg (opField w) else .unknownOp (opField w))

/-- Decode a wire frame, byte 0 first: the request (R70), the three-register and the ten-register response (R72). -/
def decodeFrame : List Byte → Except DecodeError Instr
  | [a, func, s1, s0, n1, n0, lo, hi] =>
    if func = Machine.funcCode then .ok (.requestFrame ⟨a, s1 ++ s0, n1 ++ n0, lo, hi⟩)
    else .error (.functionCode func)
  | [h2, h1, h0, v1, v0, c1, c0, d1, d0, lo, hi] =>
    .ok (.responseN3 ⟨h2 ++ h1 ++ h0, v1 ++ v0, c1 ++ c0, d1 ++ d0, lo, hi⟩)
  | [h2, h1, h0, v1, v0, c1, c0, d1, d0, p1, p0, q1, q0, e1, e0, g1, g0, f1, f0, k1, k0, t1, t0, lo, hi] =>
    .ok (.responseN10 ⟨h2 ++ h1 ++ h0, v1 ++ v0, c1 ++ c0, d1 ++ d0, p1 ++ p0, q1 ++ q0, e1 ++ e0, g1 ++ g0,
      f1 ++ f0, k1 ++ k0, t1 ++ t0, lo, hi⟩)
  | bytes => .error (.noLayout bytes.length)

/-- The command word of five bytes, `op` first (DESIGN CHOICE, log 16: R54 gives a command word no byte order; the
model only lists its bytes). -/
def commandOfBytes (b4 b3 b2 b1 b0 : Byte) : CommandWord := b4 ++ b3 ++ b2 ++ b1 ++ b0

/-- The five bytes of a command word, `op` first (log 16). -/
def commandBytes (w : CommandWord) : List Byte :=
  [w.extractLsb' 32 8, w.extractLsb' 24 8, w.extractLsb' 16 8, w.extractLsb' 8 8, w.extractLsb' 0 8]

/-- Decode any bytes: five are a command word, every other length is a wire frame or nothing. -/
def decodeBytes : List Byte → Except DecodeError Instr
  | [b4, b3, b2, b1, b0] => decodeCommand (commandOfBytes b4 b3 b2 b1 b0)
  | bytes => decodeFrame bytes

/-- The command word of `op` and `arg` (R76). -/
def commandWord (op : Byte) (arg : Word32) : CommandWord := op ++ arg

/-- The encoder, row by row from R70, R72, R76 and R77: the bytes of an instruction, byte 0 (or `op`) first. -/
def encode : Instr → List Byte
  | .crcinit => commandBytes (commandWord 0x01 0)
  | .crcbyte b => commandBytes (commandWord 0x02 (b.setWidth 32))
  | .setaddr a => commandBytes (commandWord 0x10 (a.setWidth 32))
  | .setcrcen e => commandBytes (commandWord 0x11 (e.setWidth 32))
  | .buildreq start count => commandBytes (commandWord 0x12 (start ++ count))
  | .rxclr => commandBytes (commandWord 0x20 0)
  | .rxpush b => commandBytes (commandWord 0x21 (b.setWidth 32))
  | .decode n => commandBytes (commandWord 0x22 (n.setWidth 32))
  | .derive => commandBytes (commandWord 0x30 0)
  | .requestFrame f => Machine.requestFrameBytes f
  | .responseN10 r => Machine.responseN10Bytes r
  | .responseN3 r => Machine.responseN3Bytes r

/-- The length in bytes of the shortest of the four layouts that holds `nbits` bits: the command word, the request, the
three-register response, the ten-register response (R76, R70, R72). -/
def tableLength (nbits : Nat) : Nat :=
  if nbits ≤ 40 then 5 else if nbits ≤ 64 then 8 else if nbits ≤ 88 then 11 else 25

/-- The bytes of a table word, its most significant byte first: R70 numbers a frame "as one 64-bit value whose most
significant byte is byte 0". Bits above `nbits` are those of `w`, zero in a table word. -/
def tableBytes (nbits w : Nat) : List Byte :=
  (List.range (tableLength nbits)).map (fun k => BitVec.ofNat 8 (w >>> (8 * (tableLength nbits - 1 - k))))

/-- The instruction the decoder reads from a word as spec/opcode_table.json numbers its bits. -/
def decodeTableWord (nbits w : Nat) : Option Instr :=
  (decodeBytes (tableBytes nbits w)).toOption

end Sys2Proof
end

