-- ==== Sys2Proof/Machine/State.lean ====
section
/-! DEFINITION. The state of the block (spec/10_state.md R20, R21, R25, R30, R31), the host's side of its three ports
(spec/30_encoding.md R74), and the state after reset (R35). -/

namespace Sys2Proof.Machine

/-- The thirteen registers, in the order of their numbers 0 to 12 (R21). -/
inductive Reg where
  | crc | cfg | status | rxlen | v | i | p | e | f | pf | s | q | func
  deriving DecidableEq, Repr

/-- What the observation port can read: any register, any byte of the two buffers (R33). -/
inductive Loc where
  | reg (r : Reg)
  | tx (index : Nat)
  | rx (index : Nat)
  deriving DecidableEq, Repr

/-- Why a DECODE gives "no data" (spec/60_exceptions.md R181). -/
inductive Cause where
  | short | badCount | crcFail | overrun
  deriving DecidableEq, Repr

/-- Why a command is refused (spec/60_exceptions.md R185). -/
inductive RefuseCode where
  | illCmd | badCount | noInput
  deriving DecidableEq, Repr

/-- One thing the host does at the block's ports or, for the block, on the serial line: present a command word, move a wire
frame (byte 0 first), read through the observation port, drive the reset input (spec/30_encoding.md R74,
spec/60_exceptions.md R191, R192). -/
inductive HostAction where
  | command (w : CommandWord)
  | wire (bytes : List Byte)
  | observe (l : Loc)
  | reset
  deriving DecidableEq, Repr

/-- A byte buffer: (index, byte) pairs, indices strictly rising, no pair holding what an unlisted index reads as
(`Memory.wf` in Machine/Ops.lean; log 4). -/
abbrev Memory := List Host.Cell

/-- The block, its configuration, and the host's side of the ports. -/
structure State where
  /-- `CRC`, the accumulator (R22). -/
  crc    : Word16
  /-- `CFG`: `ADDR` 7:0, `CRCEN` 8, 15:9 reserved (R23). -/
  cfg    : Word16
  /-- `STATUS` (R25). -/
  status : Word32
  /-- `RXLEN` (R26). -/
  rxlen  : BitVec 8
  /-- `V`, weight 0.1 V (R21, R27). -/
  regV   : Word16
  /-- `I`, weight 0.001 A. -/
  regI   : Word32
  /-- `P`, weight 0.1 W. -/
  regP   : Word32
  /-- `E`, weight 0.001 kWh. -/
  regE   : Word32
  /-- `F`, weight 0.1 Hz. -/
  regF   : Word16
  /-- `PF`, weight 0.01. -/
  regPF  : Word16
  /-- `S`, weight 0.0001 VA. -/
  regS   : Word48
  /-- `Q`, weight 0.0001 var. -/
  regQ   : Word48
  /-- The TX buffer, 8 bytes (R30). -/
  tx     : Memory
  /-- The RX buffer, `RXMAX` bytes (R31). -/
  rx     : Memory
  /-- `RXMAX`, constant while the machine runs (spec/00_scope.md R7; log 1). -/
  rxSize : Config.RxSize
  /-- The MODEL'S OWN: the host's actions still to be taken, oldest first (log 2). -/
  pending : List HostAction
  /-- The MODEL'S OWN: what the observation port last returned, zero-extended (log 5). -/
  observed : Option Word48
  /-- The MODEL'S OWN: the bytes the host last wrote to the serial transport, first byte first (log 8). -/
  line : List Byte
  deriving DecidableEq, Repr

/-- Why the machine stops with a fault. -/
inductive Fault where
  /-- Raised by an observation of a location that holds no value: a Reading register whose valid bit is 0, `TX` while `TXV`
  is 0, `RX` from `RXLEN` on (R28, R30, R31, spec/93_implementation_defined.md U9, U10: "a model must treat a use of it as
  a fault"). Safe. -/
  | unspecifiedRead (l : Loc)
  /-- Raised by an observation of an index the buffer does not have (spec/20_memory.md R50). Safe. -/
  | noSuchLocation (l : Loc)
  deriving DecidableEq, Repr

/-- Why the model gives a step no meaning. -/
inductive Refusal where
  /-- Raised by `exec` for a row without a meaning; every row has one. Safe. -/
  | notModelled (mnemonic : String)
  /-- Raised by the polling loop (Machine/Poll.lean) for a block that a refused command has halted
  (spec/60_exceptions.md R186; log 17). Safe. -/
  | blockHalted
  /-- Raised by the polling loop for an event its phase has no transition for (spec/60_exceptions.md R190; log 17). Safe. -/
  | noPollTransition
  deriving DecidableEq, Repr

/-- The block at reset with `RXMAX` given, no host action pending (R35). `V` to `Q` are unspecified in the spec and 0 here
(DESIGN CHOICE, log 3); `TX` and `RX` are unspecified and list nothing (log 4). -/
def State.atReset (size : Config.RxSize) : State where
  crc := 0xFFFF
  cfg := 0x0001
  status := 0
  rxlen := 0
  regV := 0
  regI := 0
  regP := 0
  regE := 0
  regF := 0
  regPF := 0
  regS := 0
  regQ := 0
  tx := []
  rx := []
  rxSize := size
  pending := []
  observed := none
  line := []

/-- The machine right after reset, `RXMAX` at its default of 32 (R35, spec/00_scope.md R7). -/
def State.reset : State := State.atReset Config.RxSize.default32

/-- `RXMAX` of this machine, in bytes. -/
def State.rxMax (s : State) : Nat := s.rxSize.bytes

end Sys2Proof.Machine
end

