-- ==== Sys2Proof/Machine/Flags.lean ====
section
/-! DEFINITION. The fields of `CFG` (spec/10_state.md R23) and `STATUS` (R25), read and written in place so that every other
bit of the word stays as it is; the codes of causes (spec/60_exceptions.md R181) and refusals (R185). The block has no carry,
overflow, zero or sign flag (R25). -/

namespace Sys2Proof.Machine

/-- Write the field of `len` bits whose lowest bit is `lo`; every other bit of the word is kept. -/
def putField {width len : Nat} (w : BitVec width) (lo : Nat) (v : BitVec len) : BitVec width :=
  (w &&& ~~~((BitVec.allOnes len).setWidth width <<< lo)) ||| (v.setWidth width <<< lo)

/-- Write one bit. -/
def putBit {width : Nat} (w : BitVec width) (lo : Nat) (b : Bool) : BitVec width :=
  putField w lo (BitVec.ofBool b)

/-- `CFG.ADDR`, bits 7:0 (R23). -/
def cfgAddr (cfg : Word16) : Byte := cfg.extractLsb' 0 8

/-- `CFG.CRCEN`, bit 8 (R23). -/
def cfgCrcEn (cfg : Word16) : Bool := cfg.getLsbD 8

/-- `STATUS.OUTCOME`, bits 1:0: 0 NONE, 1 READING, 2 NODATA (R25). -/
def stOutcome (st : Word32) : BitVec 2 := st.extractLsb' 0 2

/-- `STATUS.CAUSE`, bits 4:2 (R25). -/
def stCause (st : Word32) : BitVec 3 := st.extractLsb' 2 3

/-- `STATUS.TXV`, bit 5 (R25). -/
def stTxv (st : Word32) : Bool := st.getLsbD 5

/-- `STATUS.RXOVF`, bit 6 (R25). -/
def stRxOvf (st : Word32) : Bool := st.getLsbD 6

/-- `STATUS.ERR`, bit 7 (R25). -/
def stErr (st : Word32) : Bool := st.getLsbD 7

/-- `STATUS.VALID`, bits 15:8: V, I, P, E, F, PF, S, Q from bit 8 up (R25). -/
def stValid (st : Word32) : BitVec 8 := st.extractLsb' 8 8

/-- `STATUS.ERRCODE`, bits 19:16 (R25). -/
def stErrCode (st : Word32) : BitVec 4 := st.extractLsb' 16 4

/-- The outcome code READING (R25, R182). -/
def outcomeReading : BitVec 2 := 1

/-- The outcome code NODATA (R25, R181). -/
def outcomeNoData : BitVec 2 := 2

/-- The codes of `STATUS.CAUSE` (R25, R181). -/
def Cause.code : Cause → BitVec 3
  | .short => 1
  | .badCount => 2
  | .crcFail => 3
  | .overrun => 4

/-- The cause with a code, if it is one of the four (R181: "Codes 5 to 7 are never produced"). -/
def Cause.ofCode (c : BitVec 3) : Option Cause :=
  if c = 1 then some .short
  else if c = 2 then some .badCount
  else if c = 3 then some .crcFail
  else if c = 4 then some .overrun
  else none

/-- The codes of `STATUS.ERRCODE` (R25, R185). -/
def RefuseCode.code : RefuseCode → BitVec 4
  | .illCmd => 1
  | .badCount => 2
  | .noInput => 3

/-- The valid bits of a three-register Reading: V and I (R28). -/
def validThree : BitVec 8 := 0x03

/-- The valid bits of a ten-register Reading: V, I, P, E, F, PF (R28). -/
def validTen : BitVec 8 := 0x3F

/-- The valid bits DERIVE sets: S and Q (R28). -/
def validDerived : BitVec 8 := 0xC0

/-- Write `OUTCOME`, `CAUSE` and all eight valid bits, as every DECODE does (R28, spec/42_decode.md R138). -/
def putDecode (st : Word32) (outcome : BitVec 2) (cause : BitVec 3) (valid : BitVec 8) : Word32 :=
  putField (putField (putField st 0 outcome) 2 cause) 8 valid

/-- Write `ERR` and `ERRCODE`, as a refusal does (spec/60_exceptions.md R184). -/
def putRefuse (st : Word32) (code : RefuseCode) : Word32 :=
  putField (putBit st 7 true) 16 code.code

end Sys2Proof.Machine
end

