-- ==== Sys2Proof/Machine/Operands.lean ====
section
/-! DEFINITION. How operands are assembled: the fields of a response from its bytes (spec/20_memory.md R51, R53,
spec/42_decode.md R135, R139 to R144). Every field is unsigned; none is scaled or sign-extended (spec/30_encoding.md R72). -/

namespace Sys2Proof.Machine

/-- Byte `k` of a response. DECODE asks only for bytes it has (spec/20_memory.md R60). -/
def byteAt (r : List Byte) (k : Nat) : Byte := r.getD k 0

/-- `be16(hi, lo) = {hi, lo}` (R51). -/
def be16 (hi lo : Byte) : Word16 := hi ++ lo

/-- `il32(o) = {RX[o+2], RX[o+3], RX[o], RX[o+1]}`: the low register comes first on the wire (R53). -/
def il32 (r : List Byte) (o : Nat) : Word32 :=
  be16 (byteAt r (o + 2)) (byteAt r (o + 3)) ++ be16 (byteAt r o) (byteAt r (o + 1))

/-- `MINLEN(n) = 5 + 2n`, without wrap (R135, spec/70_reset_and_hazards.md R221). -/
def minLen (n : Word16) : Nat := 5 + 2 * n.toNat

/-- The counts DECODE admits: 3 and 10 (spec/00_scope.md R7 `COUNTS_ADMITTED`). -/
def countAdmitted (n : Word16) : Bool := n == 3 || n == 10

/-- Voltage (R139). -/
def fieldV (r : List Byte) : Word16 := be16 (byteAt r 3) (byteAt r 4)

/-- Current (R140). -/
def fieldI (r : List Byte) : Word32 := il32 r 5

/-- Active power (R141). -/
def fieldP (r : List Byte) : Word32 := il32 r 9

/-- Energy (R142). -/
def fieldE (r : List Byte) : Word32 := il32 r 13

/-- Frequency (R143). -/
def fieldF (r : List Byte) : Word16 := be16 (byteAt r 17) (byteAt r 18)

/-- Power factor (R144). -/
def fieldPF (r : List Byte) : Word16 := be16 (byteAt r 19) (byteAt r 20)

end Sys2Proof.Machine
end

