-- ==== Sys2Proof/Machine/Ops.lean ====
section
/-! DEFINITION. The operations every meaning is built from: bytes of the two buffers, single-register writes, the refusal
of a command (this hardware's exception, spec/60_exceptions.md R184) and the gate it closes (R186), reset (its only way
out, spec/70_reset_and_hazards.md R210), and the observation port (spec/10_state.md R33). -/

namespace Sys2Proof.Machine

/-- What an unlisted byte of a buffer reads as (DESIGN CHOICE, log 4). No command and no observation reads a byte the spec
calls unspecified. -/
def unlistedByte : Byte := 0

/-- Read one byte. -/
def Memory.read : Memory → Nat → Byte
  | [], _ => unlistedByte
  | (a, b) :: m, k => if a = k then b else Memory.read m k

/-- Write one byte, keeping the canonical form. -/
def Memory.write : Memory → Nat → Byte → Memory
  | [], k, v => if v = unlistedByte then [] else [(k, v)]
  | (a, b) :: m, k, v =>
    if k < a then (if v = unlistedByte then (a, b) :: m else (k, v) :: (a, b) :: m)
    else if k = a then (if v = unlistedByte then m else (k, v) :: m)
    else (a, b) :: Memory.write m k v

/-- The canonical form from an index up: indices strictly rising, no byte equal to the unlisted one. -/
def Memory.wfFrom : Nat → Memory → Bool
  | _, [] => true
  | lo, (a, b) :: m => decide (lo ≤ a) && b != unlistedByte && Memory.wfFrom (a + 1) m

/-- The canonical form of a buffer. -/
def Memory.wf (m : Memory) : Bool := Memory.wfFrom 0 m

/-- Every listed index is below `size`: the buffer holds nothing outside itself. -/
def Memory.within (size : Nat) (m : Memory) : Bool := m.all (fun c => decide (c.1 < size))

/-- `MemRead(B, a, n)` (spec/00_scope.md R9): the n bytes at a, a + 1, ..., lowest index first. -/
def memRead (m : Memory) (a n : Nat) : List Byte :=
  (List.range n).map (fun k => Memory.read m (a + k))

/-- `MemWrite(B, a, n, v)` (R9): the bytes of `v` at a, a + 1, .... -/
def memWrite (m : Memory) (a : Nat) : List Byte → Memory
  | [] => m
  | b :: bs => memWrite (Memory.write m a b) (a + 1) bs

/-- `CRC <- v`. -/
def State.setCrc (s : State) (v : Word16) : State := { s with crc := v }

/-- `CFG <- v`. -/
def State.setCfg (s : State) (v : Word16) : State := { s with cfg := v }

/-- `STATUS <- v`. -/
def State.setStatus (s : State) (v : Word32) : State := { s with status := v }

/-- `RXLEN <- v`. -/
def State.setRxlen (s : State) (v : BitVec 8) : State := { s with rxlen := v }

/-- The TX buffer replaced. -/
def State.setTx (s : State) (m : Memory) : State := { s with tx := m }

/-- The RX buffer replaced. -/
def State.setRx (s : State) (m : Memory) : State := { s with rx := m }

/-- `V` and `I` written: the fields of every Reading (spec/42_decode.md R145). -/
def State.setShort (s : State) (v : Word16) (i : Word32) : State := { s with regV := v, regI := i }

/-- `P`, `E`, `F` and `PF` written: the fields of a ten-register Reading only (R145). -/
def State.setLong (s : State) (p e : Word32) (f pf : Word16) : State :=
  { s with regP := p, regE := e, regF := f, regPF := pf }

/-- `S` and `Q` written. -/
def State.setDerived (s : State) (sv qv : Word48) : State := { s with regS := sv, regQ := qv }

/-- The host's remaining actions. -/
def State.setPending (s : State) (l : List HostAction) : State := { s with pending := l }

/-- What the observation port returned. -/
def State.setObserved (s : State) (v : Option Word48) : State := { s with observed := v }

/-- The bytes written to the serial transport. -/
def State.setLine (s : State) (l : List Byte) : State := { s with line := l }

/-- `STATUS.ERR` = 1: the block accepts no command (R186). -/
def State.halted (s : State) : Bool := stErr s.status

/-- `raise Refuse(code)` (R184, spec/00_scope.md R10): `ERR` and `ERRCODE` written, nothing else. Control goes nowhere:
"there is no handler and no vector". -/
def refuse (code : RefuseCode) (s : State) : State := s.setStatus (putRefuse s.status code)

/-- A command's effect, if the block accepts commands; while `ERR` = 1 the command "is ignored, and the state does not
change" (R186; log 6). -/
def accept (s : State) (effect : State → State) : Host.Outcome State Fault Refusal :=
  if s.halted then .next s else .next (effect s)

/-- The reset event (R210, R35): every piece of the block's state at its reset value. `RXMAX` and the host's side of the
ports are no state of the block and stay (log 7). -/
def resetBlock (s : State) : State :=
  (((State.atReset s.rxSize).setPending s.pending).setObserved s.observed).setLine s.line

/-- The valid bit of a register's field of the Reading, counted within `STATUS.VALID`; none for a register that always
holds a value (R25, R28). -/
def Reg.validBit : Reg → Option Nat
  | .crc => none
  | .cfg => none
  | .status => none
  | .rxlen => none
  | .v => some 0
  | .i => some 1
  | .p => some 2
  | .e => some 3
  | .f => some 4
  | .pf => some 5
  | .s => some 6
  | .q => some 7
  | .func => none

/-- Does the register hold a value (R28)? -/
def Reg.valid (r : Reg) (s : State) : Bool :=
  match r.validBit with
  | none => true
  | some k => (stValid s.status).getLsbD k

/-- The bits in a register, zero-extended to the widest; `FUNC` is hardwired to 0x04 (R29). -/
def Reg.bits (r : Reg) (s : State) : Word48 :=
  match r with
  | .crc => s.crc.setWidth 48
  | .cfg => s.cfg.setWidth 48
  | .status => s.status.setWidth 48
  | .rxlen => s.rxlen.setWidth 48
  | .v => s.regV.setWidth 48
  | .i => s.regI.setWidth 48
  | .p => s.regP.setWidth 48
  | .e => s.regE.setWidth 48
  | .f => s.regF.setWidth 48
  | .pf => s.regPF.setWidth 48
  | .s => s.regS
  | .q => s.regQ
  | .func => funcCode.setWidth 48

/-- The value of a register, if it holds one (R28). -/
def readReg (r : Reg) (s : State) : Option Word48 :=
  if r.valid s then some (r.bits s) else none

/-- The register with number `n` of the notation `x[n]` (R21, spec/00_scope.md R9). -/
def Reg.ofNumber : Nat → Option Reg
  | 0 => some .crc
  | 1 => some .cfg
  | 2 => some .status
  | 3 => some .rxlen
  | 4 => some .v
  | 5 => some .i
  | 6 => some .p
  | 7 => some .e
  | 8 => some .f
  | 9 => some .pf
  | 10 => some .s
  | 11 => some .q
  | 12 => some .func
  | _ => none

/-- Does the location exist (spec/20_memory.md R50)? -/
def Loc.exists (l : Loc) (s : State) : Bool :=
  match l with
  | .reg _ => true
  | .tx k => decide (k < 8)
  | .rx k => decide (k < s.rxMax)

/-- The value at a location, if it holds one: a register as R28 says, a byte of `TX` while `TXV` = 1 (R30), a byte of `RX`
below `RXLEN` (R31); an index the buffer does not have holds none (spec/20_memory.md R50). -/
def Loc.value (l : Loc) (s : State) : Option Word48 :=
  match l with
  | .reg r => readReg r s
  | .tx k => if k < 8 ∧ stTxv s.status = true then some ((Memory.read s.tx k).setWidth 48) else none
  | .rx k => if k < s.rxMax ∧ k < s.rxlen.toNat then some ((Memory.read s.rx k).setWidth 48) else none

/-- A read through the observation port (R33): no side effect on the block. A location that holds no value is a fault
(spec/93_implementation_defined.md U9, U10). -/
def observe (l : Loc) (s : State) : Host.Outcome State Fault Refusal :=
  if l.exists s then
    match l.value s with
    | some v => .next (s.setObserved (some v))
    | none => .fault (.unspecifiedRead l)
  else .fault (.noSuchLocation l)

/-- An illegal command word (spec/30_encoding.md R78): refused with ILLCMD, or ignored by a halted block (R186). -/
def illegalCommand (s : State) : Host.Outcome State Fault Refusal := accept s (refuse .illCmd)

end Sys2Proof.Machine
end

