-- ==== Sys2Proof/Machine/CrcEngine.lean ====
section
/-! DEFINITION. The CRC engine's commands: CRCINIT, CRCBYTE (spec/40_crc.md R103, R104). -/

namespace Sys2Proof.Machine

/-- CRCINIT (R103): `CRC <- 0xFFFF`. -/
def execCrcinit (s : State) : Host.Outcome State Fault Refusal :=
  accept s (fun s => s.setCrc crcInit)

/-- CRCBYTE b (R104): `CRC <- crc_byte(CRC, b)`. -/
def execCrcbyte (b : Byte) (s : State) : Host.Outcome State Fault Refusal :=
  accept s (fun s => s.setCrc (crcByte s.crc b))

end Sys2Proof.Machine
end

