-- ==== Sys2Proof/Machine/Power.lean ====
section
/-! DEFINITION. The power calculator: DERIVE (spec/43_scale_derive.md R169), in exact arithmetic on integers. -/

namespace Sys2Proof.Machine

/-- The binary digits of a square root, highest first: `k` digits still to find, `r` those found. -/
def isqrtDigits : Nat → Nat → Nat → Nat
  | 0, _, r => r
  | k + 1, d, r => isqrtDigits k d (if (r + 2 ^ k) * (r + 2 ^ k) ≤ d then r + 2 ^ k else r)

/-- `isqrt(d)`: the largest integer r with r × r ≤ d (spec/00_scope.md R8). -/
def isqrt (d : Nat) : Nat := isqrtDigits (d.log2 / 2 + 1) d 0

/-- `s <- V × I` (R169), exact. -/
def apparent (s : State) : Nat := s.regV.toNat * s.regI.toNat

/-- `d <- s × s − 1000000 × P × P` (R169); it may be negative. -/
def radicand (s : State) : Int :=
  (apparent s : Int) * apparent s - 1000000 * ((s.regP.toNat : Int) * s.regP.toNat)

/-- `isqrt(max(d, 0))` (R169). -/
def reactive (s : State) : Nat := isqrt (max (radicand s) 0).toNat

/-- `VALID.V`, `VALID.I` and `VALID.P` are 1 (R169). -/
def inputsValid (s : State) : Bool := Reg.valid .v s && Reg.valid .i s && Reg.valid .p s

/-- The effect of DERIVE with its inputs valid (R169). The bounds of R221 make both narrowings exact. -/
def derivePower (s : State) : State :=
  (s.setDerived (BitVec.ofNat 48 (apparent s)) (BitVec.ofNat 48 (reactive s))).setStatus
    (putField s.status 8 (stValid s.status ||| validDerived))

/-- DERIVE (R169): refused with NOINPUT unless its three inputs are valid. -/
def execDerive (s : State) : Host.Outcome State Fault Refusal :=
  accept s (fun s => if inputsValid s then derivePower s else refuse .noInput s)

end Sys2Proof.Machine
end

