-- ==== Sys2Proof/Machine/Request.lean ====
section
/-! DEFINITION. Configuration and the request builder: SETADDR, SETCRCEN, BUILDREQ (spec/41_request.md R121 to R123). -/

namespace Sys2Proof.Machine

/-- SETADDR a (R121): `CFG.ADDR <- a`. -/
def execSetaddr (a : Byte) (s : State) : Host.Outcome State Fault Refusal :=
  accept s (fun s => s.setCfg (putField s.cfg 0 a))

/-- SETCRCEN e (R122): `CFG.CRCEN <- e`. -/
def execSetcrcen (e : BitVec 1) (s : State) : Host.Outcome State Fault Refusal :=
  accept s (fun s => s.setCfg (putField s.cfg 8 e))

/-- The effect of BUILDREQ for a count of at least 1 (R123): the frame of R120 in `TX[0..7]`, its body's checksum in `CRC`,
`TXV` set. -/
def buildFrame (start count : Word16) (s : State) : State :=
  ((s.setTx (memWrite s.tx 0 (buildRequest (cfgAddr s.cfg) start count))).setCrc
    (requestCrc (cfgAddr s.cfg) start count)).setStatus (putBit s.status 5 true)

/-- BUILDREQ start, count (R123): count 0 is refused with BADCOUNT. -/
def execBuildreq (start count : Word16) (s : State) : Host.Outcome State Fault Refusal :=
  accept s (fun s => if count = 0 then refuse .badCount s else buildFrame start count s)

end Sys2Proof.Machine
end

