-- ==== Sys2Proof/Machine/Response.lean ====
section
/-! DEFINITION. The response decoder: RXCLR, RXPUSH, DECODE (spec/42_decode.md R136 to R138, R147). -/

namespace Sys2Proof.Machine

/-- The effect of RXCLR (R136). The bytes of `RX` are not erased (log 11). -/
def clearRx (s : State) : State := (s.setRxlen 0).setStatus (putBit s.status 6 false)

/-- The effect of RXPUSH b (R137): the byte at index `RXLEN`, or, when the buffer is full, `RXOVF`. -/
def pushRx (b : Byte) (s : State) : State :=
  if s.rxlen.toNat < s.rxMax then
    (s.setRx (Memory.write s.rx s.rxlen.toNat b)).setRxlen (s.rxlen + 1)
  else s.setStatus (putBit s.status 6 true)

/-- The bytes received, `RX[0 .. RXLEN - 1]`. -/
def rxBytes (s : State) : List Byte := memRead s.rx 0 s.rxlen.toNat

/-- The checksum DECODE computes, `crc16(MemRead(RX, 0, RXLEN - 2))` (R138). It is asked for only when `RXLEN` is at least
11, so never of an empty sequence. -/
def rxChecksum (s : State) : Word16 := crcFold crcInit (memRead s.rx 0 (s.rxlen.toNat - 2))

/-- `RX[RXLEN-2] = c[7:0]` and `RX[RXLEN-1] = c[15:8]` (R138, spec/20_memory.md R59). -/
def trailerMatches (s : State) : Bool :=
  Memory.read s.rx (s.rxlen.toNat - 2) == crcLow (rxChecksum s) &&
    Memory.read s.rx (s.rxlen.toNat - 1) == crcHigh (rxChecksum s)

/-- The first of the three tests before the checksum that fails, in their order (R138, spec/60_exceptions.md R183). -/
def earlyCause (n : Word16) (s : State) : Option Cause :=
  if !countAdmitted n then some .badCount
  else if stRxOvf s.status then some .overrun
  else if s.rxlen.toNat < minLen n then some .short
  else none

/-- Does the CRC check run (R147)? -/
def crcRuns (n : Word16) (s : State) : Bool := (earlyCause n s).isNone && cfgCrcEn s.cfg

/-- The cause of NODATA, if there is one (R138). -/
def decodeCause (n : Word16) (s : State) : Option Cause :=
  match earlyCause n s with
  | some c => some c
  | none => if cfgCrcEn s.cfg && !trailerMatches s then some .crcFail else none

/-- `nodata(cause)` after the valid bits were cleared (R138, spec/00_scope.md R10). -/
def giveNoData (c : Cause) (s : State) : State :=
  s.setStatus (putDecode s.status outcomeNoData c.code 0)

/-- The Reading extracted and the outcome READING (R138, R145). -/
def giveReading (n : Word16) (s : State) : State :=
  let r := rxBytes s
  if n = 10 then
    ((s.setShort (fieldV r) (fieldI r)).setLong (fieldP r) (fieldE r) (fieldF r) (fieldPF r)).setStatus
      (putDecode s.status outcomeReading 0 validTen)
  else
    (s.setShort (fieldV r) (fieldI r)).setStatus (putDecode s.status outcomeReading 0 validThree)

/-- `CRC` after the check, if it ran (R138, R147). -/
def noteChecksum (n : Word16) (s : State) : State :=
  if crcRuns n s then s.setCrc (rxChecksum s) else s

/-- The effect of DECODE n (R138). -/
def decodeRx (n : Word16) (s : State) : State :=
  match decodeCause n s with
  | some c => giveNoData c (noteChecksum n s)
  | none => giveReading n (noteChecksum n s)

/-- RXCLR (R136). -/
def execRxclr (s : State) : Host.Outcome State Fault Refusal := accept s clearRx

/-- RXPUSH b (R137). -/
def execRxpush (b : Byte) (s : State) : Host.Outcome State Fault Refusal := accept s (pushRx b)

/-- DECODE n (R138). -/
def execDecode (n : Word16) (s : State) : Host.Outcome State Fault Refusal := accept s (decodeRx n)

end Sys2Proof.Machine
end

