-- ==== Sys2Proof/Machine/Wire.lean ====
section
/-! DEFINITION. The three wire rows of the opcode table, as what the host does with such a frame in a polling cycle
(spec/60_exceptions.md R191, spec/30_encoding.md R70, R72, R81; logs 8 and 9), and what it does with bytes that have no
layout (log 10). -/

namespace Sys2Proof.Machine

/-- `RXLOAD b0, ..., bk` (R81): RXCLR, then RXPUSH of each byte in order of arrival. -/
def loadRx (bytes : List Byte) (s : State) : State := bytes.foldl (fun s b => pushRx b s) (clearRx s)

/-- The response handed over and decoded: RXLOAD of its bytes, then DECODE n (R191). -/
def receive (n : Word16) (bytes : List Byte) (s : State) : State := decodeRx n (loadRx bytes s)

/-- REQUEST_FRAME: the host writes the 8 bytes to the device, byte 0 first (R70, R191, R192). The block does not see the
transport: no state of the block changes, halted or not (log 8). -/
def execRequestFrame (f : RequestFrame) (s : State) : Host.Outcome State Fault Refusal :=
  .next (s.setLine (requestFrameBytes f))

/-- RESPONSE_N10: the 25 bytes arrive and are decoded with n = 10 (R72, R191; log 9). -/
def execResponseN10 (r : ResponseN10) (s : State) : Host.Outcome State Fault Refusal :=
  accept s (receive 10 (responseN10Bytes r))

/-- RESPONSE_N3: the 11 bytes arrive and are decoded with n = 3 (R72, R191; log 9). -/
def execResponseN3 (r : ResponseN3) (s : State) : Host.Outcome State Fault Refusal :=
  accept s (receive 3 (responseN3Bytes r))

/-- Bytes that arrive and are none of the layouts, such as an exception response or a short one: "`RXCLR`; one `RXPUSH` per
byte received, in order of arrival (none, if nothing arrived)" (R191), which is RXLOAD of them (R81); the block "does not
look at the function code of a response" (R73). The DECODE that follows is a command of the host's own, since no layout gives
its count (log 10). -/
def strayBytes (bytes : List Byte) (s : State) : Host.Outcome State Fault Refusal := accept s (loadRx bytes)

end Sys2Proof.Machine
end

