-- ==== Sys2Proof/Machine/Dispatch.lean ====
section
/-! DEFINITION. One arm per row of the opcode table. -/

namespace Sys2Proof.Machine

def exec (i : Instr) (s : State) : Host.Outcome State Fault Refusal :=
  match i with
  | .crcinit => Sys2Proof.Machine.execCrcinit s
  | .crcbyte b => Sys2Proof.Machine.execCrcbyte b s
  | .setaddr a => Sys2Proof.Machine.execSetaddr a s
  | .setcrcen e => Sys2Proof.Machine.execSetcrcen e s
  | .buildreq start count => Sys2Proof.Machine.execBuildreq start count s
  | .rxclr => Sys2Proof.Machine.execRxclr s
  | .rxpush b => Sys2Proof.Machine.execRxpush b s
  | .decode n => Sys2Proof.Machine.execDecode n s
  | .derive => Sys2Proof.Machine.execDerive s
  -- the wire formats the table lists beside the commands (R70, R72)
  | .requestFrame f => Sys2Proof.Machine.execRequestFrame f s
  | .responseN10 r => Sys2Proof.Machine.execResponseN10 r s
  | .responseN3 r => Sys2Proof.Machine.execResponseN3 r s

end Sys2Proof.Machine
end

