-- ==== Sys2Proof/Machine/Port.lean ====
section
/-! DEFINITION. What one action of the host does at the block's ports (spec/30_encoding.md R74). -/

namespace Sys2Proof.Machine

/-- One action of the host: a command word is decoded and executed, or refused as illegal (spec/30_encoding.md R78); wire
bytes are moved, by their layout where they have one; an observation is made (spec/10_state.md R33); reset is taken (spec/70_reset_and_hazards.md R210). -/
def act (a : HostAction) (s : State) : Host.Outcome State Fault Refusal :=
  match a with
  | .command w =>
    match decodeCommand w with
    | .ok i => exec i s
    | .error _ => illegalCommand s
  | .wire bytes =>
    match decodeFrame bytes with
    | .ok i => exec i s
    | .error _ => strayBytes bytes s
  | .observe l => observe l s
  | .reset => .next (resetBlock s)

/-- The host's action that carries an instruction's bytes: five are a command word for the command port, any other number
a frame on the wire. -/
def actionOfBytes : List Byte → HostAction
  | [b4, b3, b2, b1, b0] => .command (commandOfBytes b4 b3 b2 b1 b0)
  | bytes => .wire bytes

end Sys2Proof.Machine
end

