-- ==== Sys2Proof/Machine/Step.lean ====
section
/-! DEFINITION. One step: the block takes the host's next action, and does it whole (spec/20_memory.md R61). -/

namespace Sys2Proof.Machine

/-- One step. With no action pending the block "is simply idle with its state held" (spec/60_exceptions.md R198; log 2). -/
def step (s : State) : Host.Outcome State Fault Refusal :=
  match s.pending with
  | [] => .next s
  | a :: rest => act a (s.setPending rest)

/-- `s` with a table word as the host's next action, which is where a step takes its instruction from (log 2). -/
def State.withFetchWord (s : State) (nbits w : Nat) : State :=
  s.setPending (actionOfBytes (tableBytes nbits w) :: s.pending)

end Sys2Proof.Machine
end

