-- ==== Sys2Proof/Machine/Reading.lean ====
section
/-! DEFINITION. Readings and outcomes as values: the Reading a state holds (spec/10_state.md R27, R28), the outcome its
`STATUS` tells (R25, spec/60_exceptions.md R181, R182), the decoder as a pure function (spec/42_decode.md R146), and the
scaler: the physical value of a field (spec/43_scale_derive.md R160, spec/00_scope.md R11). -/

namespace Sys2Proof.Machine

/-- A Reading: the fields that are valid (R27, R28). -/
structure Reading where
  v  : Option Word16
  i  : Option Word32
  p  : Option Word32
  e  : Option Word32
  f  : Option Word16
  pf : Option Word16
  s  : Option Word48
  q  : Option Word48
  deriving DecidableEq, Repr

/-- PollOutcome: "either a Reading, or an explicit 'no data' marker" (spec/00_scope.md R14). -/
inductive PollOutcome where
  | reading (r : Reading)
  | noData (c : Cause)
  deriving DecidableEq, Repr

/-- A register's content, if its valid bit is 1 (R28). -/
def ifValid {n : Nat} (r : Reg) (s : State) (content : BitVec n) : Option (BitVec n) :=
  if r.valid s then some content else none

/-- The Reading a state holds (R28). -/
def readingOf (s : State) : Reading where
  v := ifValid .v s s.regV
  i := ifValid .i s s.regI
  p := ifValid .p s s.regP
  e := ifValid .e s s.regE
  f := ifValid .f s s.regF
  pf := ifValid .pf s s.regPF
  s := ifValid .s s s.regS
  q := ifValid .q s s.regQ

/-- The outcome of the last DECODE, as `STATUS` and the Reading tell it; none before the first DECODE since reset
(R25, R182). -/
def outcomeOf (s : State) : Option PollOutcome :=
  if stOutcome s.status = outcomeReading then some (.reading (readingOf s))
  else if stOutcome s.status = outcomeNoData then (Cause.ofCode (stCause s.status)).map .noData
  else none

/-- The Reading of a three-register response (R145, R146). -/
def readingThree (r : List Byte) : Reading where
  v := some (fieldV r)
  i := some (fieldI r)
  p := none
  e := none
  f := none
  pf := none
  s := none
  q := none

/-- The Reading of a ten-register response (R146). -/
def readingTen (r : List Byte) : Reading where
  v := some (fieldV r)
  i := some (fieldI r)
  p := some (fieldP r)
  e := some (fieldE r)
  f := some (fieldF r)
  pf := some (fieldPF r)
  s := none
  q := none

/-- `decode(r, n, e)`: the decoder as a pure function of the bytes, the count and the policy (R146). -/
def decodeResponse (r : List Byte) (n : Word16) (e : Bool) : PollOutcome :=
  if n ≠ 3 ∧ n ≠ 10 then .noData .badCount
  else if r.length < minLen n then .noData .short
  else if e = true ∧ crcOk r = false then .noData .crcFail
  else if n = 3 then .reading (readingThree r)
  else .reading (readingTen r)

/-- The reciprocal of a Reading register's weight (R160); the other registers have none. -/
def Reg.weight : Reg → Option Nat
  | .crc => none
  | .cfg => none
  | .status => none
  | .rxlen => none
  | .v => some 10
  | .i => some 1000
  | .p => some 10
  | .e => some 1000
  | .f => some 10
  | .pf => some 100
  | .s => some 10000
  | .q => some 10000
  | .func => none

/-- The physical value of a field of the Reading: the exact rational raw × w (R160, spec/00_scope.md R11), if the register
holds a value. -/
def physical (r : Reg) (s : State) : Option Rat :=
  match r.weight, readReg r s with
  | some w, some raw => some ((raw.toNat : Rat) / (w : Rat))
  | _, _ => none

end Sys2Proof.Machine
end

