-- ==== Sys2Proof/Machine/Payload.lean ====
section
/-! DEFINITION. The telemetry payload the host makes of a Reading (spec/60_exceptions.md R196; log 22). It is outside the
block. -/

namespace Sys2Proof.Machine

/-- The ten fields of the schema (R196). -/
structure Payload where
  deviceId      : String
  voltage       : Rat
  current       : Rat
  activePower   : Rat
  energyKwh     : Rat
  frequency     : Rat
  powerFactor   : Rat
  apparentPower : Rat
  reactivePower : Rat
  timestamp     : Nat
  deriving DecidableEq, Repr

/-- The payload of a Reading with all eight fields; `deviceId` and `timestamp` come from the host. The first six have no
more decimals than the schema allows, "so rounding changes none of them"; the two derived ones are rounded to two (R196). -/
def payloadOf (deviceId : String) (timestamp : Nat) (s : State) : Option Payload :=
  match physical .v s, physical .i s, physical .p s, physical .e s, physical .f s, physical .pf s, physical .s s,
    physical .q s with
  | some v, some i, some p, some e, some f, some pf, some sv, some qv =>
    some ⟨deviceId, v, i, p, e, f, pf, Config.payloadRound 2 sv, Config.payloadRound 2 qv, timestamp⟩
  | _, _, _, _, _, _, _, _ => none

end Sys2Proof.Machine
end

