-- ==== Sys2Proof/Machine/Poll.lean ====
section
/-! DEFINITION. The pseudo-commands (spec/30_encoding.md R81) and, beside the block, the host's polling loop
(spec/60_exceptions.md R190, R191; log 17). -/

namespace Sys2Proof.Machine

/-- Commands issued one after another, stopping at the first fault or refusal of the model. -/
def execAll : List Instr → State → Host.Outcome State Fault Refusal
  | [], s => .next s
  | i :: is, s =>
    match exec i s with
    | .next t => execAll is t
    | .fault r => .fault r
    | .refused r => .refused r

/-- `CRC16 b0, ..., bk` (R81). -/
def pseudoCrc16 (b0 : Byte) (bytes : List Byte) : List Instr := .crcinit :: (b0 :: bytes).map .crcbyte

/-- `RXLOAD b0, ..., bk`, zero or more bytes (R81). -/
def pseudoRxload (bytes : List Byte) : List Instr := .rxclr :: bytes.map .rxpush

/-- The two states of the polling loop (R190). -/
inductive PollPhase where
  | idle | polling
  deriving DecidableEq, Repr

/-- What moves the polling loop: the timer tick, and the end of the bounded read with whatever bytes arrived (R190). -/
inductive PollEvent where
  | tick
  | arrived (bytes : List Byte)
  deriving DecidableEq, Repr

/-- The register counts a poll asks for: 3 or 10 (spec/41_request.md R125). -/
inductive PollCount where
  | three | ten
  deriving DecidableEq, Repr

/-- The count as an operand. -/
def PollCount.word : PollCount → Word16
  | .three => 3
  | .ten => 10

/-- The polling loop: its phase, the block it drives, and the outcomes handed to the sink, latest first (R190). -/
structure PollLoop where
  phase : PollPhase
  block : State
  sink  : List PollOutcome
  deriving DecidableEq, Repr

/-- The commands of a cycle up to its DECODE, once the bytes have arrived (R191). -/
def pollDecode (n : PollCount) (bytes : List Byte) : List Instr := pseudoRxload bytes ++ [.decode n.word]

/-- "then, only if STATUS.OUTCOME = READING and STATUS.VALID.P = 1, DERIVE" (R81, R191). -/
def pollDerive (s : State) : List Instr :=
  if stOutcome s.status = outcomeReading ∧ Reg.valid .p s = true then [.derive] else []

/-- Idle to Polling: build the request and write `TX[0..7]` to the device (R190, R191). -/
def pollTick (n : PollCount) (L : PollLoop) : Host.Outcome PollLoop Fault Refusal :=
  match execAll [.buildreq 0 n.word] L.block with
  | .next t =>
    if t.halted then .refused .blockHalted
    else .next ⟨.polling, t.setLine (memRead t.tx 0 8), L.sink⟩
  | .fault r => .fault r
  | .refused r => .refused r

/-- The outcome handed to the sink and the return to Idle (R190). A block that has decoded has an outcome, unless it is
halted (R182, R186). -/
def pollHandOver (t : State) (sink : List PollOutcome) : Host.Outcome PollLoop Fault Refusal :=
  if t.halted then .refused .blockHalted
  else
    match outcomeOf t with
    | some o => .next ⟨.idle, t, o :: sink⟩
    | none => .refused .blockHalted

/-- Polling to Idle: the bytes to the decoder, DERIVE where there is a power, the outcome to the sink (R190, R191). -/
def pollArrived (n : PollCount) (bytes : List Byte) (L : PollLoop) : Host.Outcome PollLoop Fault Refusal :=
  match execAll (pollDecode n bytes) L.block with
  | .next t =>
    match execAll (pollDerive t) t with
    | .next u => pollHandOver u L.sink
    | .fault r => .fault r
    | .refused r => .refused r
  | .fault r => .fault r
  | .refused r => .refused r

/-- One transition of the polling loop (R190). The spec gives each phase one event; the other is no transition of it. -/
def pollStep (n : PollCount) (ev : PollEvent) (L : PollLoop) : Host.Outcome PollLoop Fault Refusal :=
  match L.phase, ev with
  | .idle, .tick => pollTick n L
  | .polling, .arrived bytes => pollArrived n bytes L
  | .idle, .arrived _ => .refused .noPollTransition
  | .polling, .tick => .refused .noPollTransition

end Sys2Proof.Machine
end

