-- ==== Sys2Proof/Safety.lean ====
section
/-! DEFINITION. What counts as a safe run, and the invariant of the machine. A block halted by a refused command "has gone
wrong": its state is observable and "is not a final state of a run" (spec/60_exceptions.md R186, spec/70_reset_and_hazards.md
R219). -/

namespace Sys2Proof.Safety

open Sys2Proof.Machine

/-- A run is over in this state, and it is a final state: nothing is pending and no command was refused (R186, R219). -/
def Final (s : State) : Prop := s.pending = [] ∧ s.halted = false

/-- The block has gone wrong: a command was refused (R186). -/
def GoneWrong (s : State) : Prop := s.halted = true

/-- How a run of commands ends (R219). -/
inductive RunEnd where
  | finished (s : State)
  | wentWrong (s : State)
  deriving DecidableEq, Repr

/-- The end of a finite list of commands (R219): in the state the rules give, or at the first refusal, after which no command
changes the state (R186). -/
def endOfRun (commands : List Instr) (s : State) : Option RunEnd :=
  match execAll commands s with
  | .next t => some (if t.halted then .wentWrong t else .finished t)
  | .fault _ => none
  | .refused _ => none

/-- The bits of `CFG` and `STATUS` that are reserved read as zero (spec/10_state.md R23, R25). -/
def ReservedZero (s : State) : Prop :=
  s.cfg.extractLsb' 9 7 = 0 ∧ s.status.extractLsb' 20 12 = 0

/-- `OUTCOME` and `CAUSE` are codes that are produced, and `CAUSE` is 0 exactly when `OUTCOME` is not NODATA
(R25, spec/60_exceptions.md R181). -/
def OutcomeLegal (s : State) : Prop :=
  (stOutcome s.status = 2 ∧ ∃ c : Cause, stCause s.status = c.code) ∨
    ((stOutcome s.status = 0 ∨ stOutcome s.status = 1) ∧ stCause s.status = 0)

/-- `ERRCODE` is 0 while `ERR` is 0, and one of the three codes while it is 1 (R25, spec/60_exceptions.md R185). -/
def ErrLegal (s : State) : Prop :=
  (stErr s.status = false ∧ stErrCode s.status = 0) ∨
    (stErr s.status = true ∧ ∃ c : RefuseCode, stErrCode s.status = c.code)

/-- The valid bits are those of a Reading: none, or with outcome READING two, six, or eight (R28). -/
def ValidLegal (s : State) : Prop :=
  stValid s.status = 0 ∨
    (stOutcome s.status = 1 ∧
      (stValid s.status = 0x03 ∨ stValid s.status = 0x3F ∨ stValid s.status = 0xFF))

/-- `RXLEN` never exceeds `RXMAX`, and an overflow is recorded only of a full buffer (R26, spec/42_decode.md R137). -/
def RxLegal (s : State) : Prop :=
  s.rxlen.toNat ≤ s.rxMax ∧ (stRxOvf s.status = true → s.rxlen.toNat = s.rxMax)

/-- Both buffers are in canonical form and hold nothing outside themselves (spec/20_memory.md R50). -/
def BuffersLegal (s : State) : Prop :=
  Memory.wf s.tx = true ∧ Memory.wf s.rx = true ∧
    Memory.within 8 s.tx = true ∧ Memory.within s.rxMax s.rx = true

/-- While `TXV` is 1 the TX buffer holds a request frame: function code 0x04 and a right trailer
(R30, spec/41_request.md R124). -/
def TxLegal (s : State) : Prop :=
  stTxv s.status = true → Memory.read s.tx 1 = 0x04 ∧ crcOk (memRead s.tx 0 8) = true

/-- While `S` and `Q` are valid they are the derived quantities of `V`, `I` and `P` (R28, spec/43_scale_derive.md R169). -/
def DerivedLegal (s : State) : Prop :=
  Reg.valid .s s = true →
    s.regS.toNat = s.regV.toNat * s.regI.toNat ∧
      (s.regQ.toNat * s.regQ.toNat : Int) ≤
        max ((s.regS.toNat : Int) * s.regS.toNat - 1000000 * ((s.regP.toNat : Int) * s.regP.toNat)) 0 ∧
      max ((s.regS.toNat : Int) * s.regS.toNat - 1000000 * ((s.regP.toNat : Int) * s.regP.toNat)) 0 <
        ((s.regQ.toNat + 1) * (s.regQ.toNat + 1) : Int)

/-- The invariant every step keeps. -/
structure BlockInv (s : State) : Prop where
  reserved : ReservedZero s
  outcome  : OutcomeLegal s
  err      : ErrLegal s
  valid    : ValidLegal s
  rx       : RxLegal s
  buffers  : BuffersLegal s
  tx       : TxLegal s
  derived  : DerivedLegal s

end Sys2Proof.Safety
end

