-- ==== Sys2Proof/Certificates/Slice0/Obligations.lean ====
section
/-! DEFINITION. The statements for the provers, from the numbered rules of spec/. A state the spec's rules speak of is one
whose block accepts commands (`halted = false`); what a halted block does has statements of its own. -/

open Sys2Proof Sys2Proof.Machine Sys2Proof.Safety

namespace Sys2Proof.Statements

/-- `t` is `s` after `raise Refuse(code)`: `ERR` is 1, `ERRCODE` is the code, and every other bit of `STATUS` and every
other part of the state is as before (spec/60_exceptions.md R184). -/
def Refused (s t : State) (code : BitVec 4) : Prop :=
  t = { s with status := t.status } ∧
    t.status.getLsbD 7 = true ∧ t.status.extractLsb' 16 4 = code ∧
    ∀ k, k ≠ 7 → (k < 16 ∨ 20 ≤ k) → t.status.getLsbD k = s.status.getLsbD k

/-- The words with this `op`: those whose `arg` is legal are the instruction given, the others are refused with ILLCMD, code
1, when a block that accepts commands takes them (spec/30_encoding.md R77, R78). -/
def Words (op : Byte) (legal : Word32 → Prop) (meaning : Word32 → Instr) : Prop :=
  ∀ w : CommandWord, w.extractLsb' 32 8 = op →
    (legal (w.extractLsb' 0 32) → decodeCommand w = .ok (meaning (w.extractLsb' 0 32))) ∧
    (¬ legal (w.extractLsb' 0 32) → ∀ (s : State) (rest : List HostAction),
      s.pending = .command w :: rest → s.halted = false →
        ∃ t, step s = .next t ∧ Refused { s with pending := rest } t 1)

/-- `t` has outcome, cause and valid bits as given, and every bit of `STATUS` that is none of theirs as in `s`. -/
def Decoded (s t : State) (outcome : BitVec 2) (cause : BitVec 3) (valid : BitVec 8) : Prop :=
  t.status.extractLsb' 0 2 = outcome ∧ t.status.extractLsb' 2 3 = cause ∧ t.status.extractLsb' 8 8 = valid ∧
    ∀ k, (5 ≤ k ∧ k < 8) ∨ 16 ≤ k → t.status.getLsbD k = s.status.getLsbD k

/-- The tests of DECODE before its checksum all pass (spec/42_decode.md R138). -/
def PassesEarly (n : Word16) (s : State) : Prop :=
  (n = 3 ∨ n = 10) ∧ s.status.getLsbD 6 = false ∧ 5 + 2 * n.toNat ≤ s.rxlen.toNat

/-- The bytes received, `RX[0 .. RXLEN - 1]`. -/
def received (s : State) : List Byte := memRead s.rx 0 s.rxlen.toNat

/-- The (match, mask) pairs of the opcode map, as spec/30_encoding.md R77 prints them. -/
def opcodeMap : List (CommandWord × CommandWord) :=
  [(0x0100000000, 0xFFFFFFFFFF), (0x0200000000, 0xFFFFFFFF00), (0x1000000000, 0xFFFFFFFF00),
   (0x1100000000, 0xFFFFFFFFFE), (0x1200000000, 0xFF00000000), (0x2000000000, 0xFFFFFFFFFF),
   (0x2100000000, 0xFFFFFFFF00), (0x2200000000, 0xFFFFFF0000), (0x3000000000, 0xFFFFFFFFFF)]

end Sys2Proof.Statements

open Sys2Proof.Statements

/-! The CRC engine (spec/40_crc.md). -/

/-- R103: CRCINIT, its words, and that it writes `CRC` and nothing else. -/
def Obligations.CrcinitStartsChecksum : Prop :=
  Words 0x01 (fun arg => arg = 0) (fun _ => .crcinit) ∧
    ∀ s : State, s.halted = false → exec .crcinit s = .next { s with crc := 0xFFFF }

/-- R104 with R100 and R101: CRCBYTE, its words, and `CRC` after eight bit steps on the accumulator with the byte
exclusive-ored in; nothing else is written. -/
def Obligations.CrcbyteFoldsEightBitSteps : Prop :=
  Words 0x02 (fun arg => arg.extractLsb' 8 24 = 0) (fun arg => .crcbyte (arg.extractLsb' 0 8)) ∧
    ∀ (s : State) (b : Byte), s.halted = false →
      ∃ a : Nat → Word16, a 0 = s.crc ^^^ b.setWidth 16 ∧
        (∀ k, k < 8 → a (k + 1) = if (a k).getLsbD 0 = true then (a k >>> 1) ^^^ 0xA001#16 else a k >>> 1) ∧
        exec (.crcbyte b) s = .next { s with crc := a 8 }

/-- R106: for a fixed byte the engine is a bijection on the accumulator. -/
def Obligations.CrcByteIsBijective : Prop :=
  ∀ b : Byte, Function.Bijective (fun a : Word16 => crcByte a b)

/-- R107 (b), R102: a checksum continues from any non-empty beginning. -/
def Obligations.CrcIsIncremental : Prop :=
  ∀ (b : Byte) (s t : List Byte),
    ∃ c, crc16 (b :: s) = some c ∧ crc16 ((b :: s) ++ t) = some (t.foldl crcByte c)

/-- R107 (d): the residue of a sequence with its trailer is zero. -/
def Obligations.CrcResidueIsZero : Prop :=
  ∀ (s : List Byte) (c : Word16), crc16 s = some c →
    crc16 (s ++ [c.extractLsb' 0 8, c.extractLsb' 8 8]) = some 0

/-- R107 (d), R105: for at least three bytes, the trailer is right exactly when the residue is zero. -/
def Obligations.CrcOkExactlyWhenResidueZero : Prop :=
  ∀ f : List Byte, 3 ≤ f.length → (crcOk f = true ↔ crc16 f = some 0)

/-- R81, R107 (b), R75: the pseudo-command CRC16 leaves the checksum of its bytes in `CRC` and changes nothing else. -/
def Obligations.PseudoCrc16ComputesChecksum : Prop :=
  ∀ (s : State) (b0 : Byte) (bytes : List Byte), s.halted = false →
    ∃ c, crc16 (b0 :: bytes) = some c ∧ execAll (pseudoCrc16 b0 bytes) s = .next { s with crc := c }

/-! Configuration and the request builder (spec/41_request.md). -/

/-- R121: SETADDR, its words, and that it writes `CFG.ADDR` and nothing else. -/
def Obligations.SetaddrWritesAddressOnly : Prop :=
  Words 0x10 (fun arg => arg.extractLsb' 8 24 = 0) (fun arg => .setaddr (arg.extractLsb' 0 8)) ∧
    ∀ (s : State) (a : Byte), s.halted = false →
      ∃ c : Word16, exec (.setaddr a) s = .next { s with cfg := c } ∧
        c.extractLsb' 0 8 = a ∧ ∀ k, 8 ≤ k → c.getLsbD k = s.cfg.getLsbD k

/-- R122: SETCRCEN, its words, and that it writes `CFG.CRCEN` and nothing else. -/
def Obligations.SetcrcenWritesPolicyOnly : Prop :=
  Words 0x11 (fun arg => arg.extractLsb' 1 31 = 0) (fun arg => .setcrcen (arg.extractLsb' 0 1)) ∧
    ∀ (s : State) (e : BitVec 1), s.halted = false →
      ∃ c : Word16, exec (.setcrcen e) s = .next { s with cfg := c } ∧
        c.getLsbD 8 = e.getLsbD 0 ∧ ∀ k, k ≠ 8 → c.getLsbD k = s.cfg.getLsbD k

/-- R123: BUILDREQ, its words, of which none is illegal; with a count of at least 1 the frame byte by byte, `CRC`, `TXV` and nothing else; with count 0
the refusal BADCOUNT. -/
def Obligations.BuildreqBuildsFrameOrRefuses : Prop :=
  (∀ w : CommandWord, w.extractLsb' 32 8 = 0x12 →
    decodeCommand w = .ok (.buildreq (w.extractLsb' 16 16) (w.extractLsb' 0 16))) ∧
    (∀ (s : State) (start count : Word16), s.halted = false → Memory.wf s.tx = true → count ≠ 0 →
      ∃ t c, exec (.buildreq start count) s = .next t ∧
        crc16 [s.cfg.extractLsb' 0 8, 0x04, start.extractLsb' 8 8, start.extractLsb' 0 8,
          count.extractLsb' 8 8, count.extractLsb' 0 8] = some c ∧
        Memory.read t.tx 0 = s.cfg.extractLsb' 0 8 ∧ Memory.read t.tx 1 = 0x04 ∧
        Memory.read t.tx 2 = start.extractLsb' 8 8 ∧ Memory.read t.tx 3 = start.extractLsb' 0 8 ∧
        Memory.read t.tx 4 = count.extractLsb' 8 8 ∧ Memory.read t.tx 5 = count.extractLsb' 0 8 ∧
        Memory.read t.tx 6 = c.extractLsb' 0 8 ∧ Memory.read t.tx 7 = c.extractLsb' 8 8 ∧
        (∀ k, 8 ≤ k → Memory.read t.tx k = Memory.read s.tx k) ∧
        t.crc = c ∧ t.status.getLsbD 5 = true ∧
        (∀ k, k ≠ 5 → t.status.getLsbD k = s.status.getLsbD k) ∧
        t = { s with tx := t.tx, crc := t.crc, status := t.status }) ∧
    (∀ (s : State) (start : Word16), s.halted = false →
      ∃ t, exec (.buildreq start 0) s = .next t ∧ Refused s t 2)

/-- R124 (b), (c): the frame BUILDREQ leaves in `TX` has a right trailer and function code 0x04. -/
def Obligations.BuiltFrameHasRightTrailer : Prop :=
  ∀ (s : State) (start count : Word16), s.halted = false → Memory.wf s.tx = true → count ≠ 0 →
    ∃ t, exec (.buildreq start count) s = .next t ∧
      crcOk (memRead t.tx 0 8) = true ∧ Memory.read t.tx 1 = 0x04

/-- R124 (d), (e): the frame and the checksum depend on `CFG.ADDR`, start and count only. -/
def Obligations.BuiltFrameDependsOnAddressAndRangeOnly : Prop :=
  ∀ (s s' : State) (start count : Word16), s.halted = false → s'.halted = false →
    Memory.wf s.tx = true → Memory.wf s'.tx = true → count ≠ 0 →
    s.cfg.extractLsb' 0 8 = s'.cfg.extractLsb' 0 8 →
      ∃ t t', exec (.buildreq start count) s = .next t ∧ exec (.buildreq start count) s' = .next t' ∧
        memRead t.tx 0 8 = memRead t'.tx 0 8 ∧ t.crc = t'.crc

/-- R70, R71: the bytes BUILDREQ leaves in `TX` are a request frame on the wire, with the address, start and count it was
built from and a right trailer. -/
def Obligations.BuiltFrameIsRequestFrame : Prop :=
  ∀ (s : State) (start count : Word16), s.halted = false → Memory.wf s.tx = true → count ≠ 0 →
    ∃ t f, exec (.buildreq start count) s = .next t ∧
      decodeFrame (memRead t.tx 0 8) = .ok (.requestFrame f) ∧
      f.addr = s.cfg.extractLsb' 0 8 ∧ f.start = start ∧ f.count = count ∧
      (Instr.requestFrame f).wellFormed = true

/-! The response decoder (spec/42_decode.md). -/

/-- R136: RXCLR, its words, and that it empties the buffer, clears `RXOVF` and changes nothing else. Of the bytes of `RX`,
which "become unspecified", it says nothing. -/
def Obligations.RxclrEmptiesBuffer : Prop :=
  Words 0x20 (fun arg => arg = 0) (fun _ => .rxclr) ∧
    ∀ s : State, s.halted = false →
      ∃ (st : Word32) (m : Memory), exec .rxclr s = .next { s with rxlen := 0, status := st, rx := m } ∧
        st.getLsbD 6 = false ∧ ∀ k, k ≠ 6 → st.getLsbD k = s.status.getLsbD k

/-- The model's own (log 11, from R136 "not erased" and R34): RXCLR leaves every byte of both buffers where it is. -/
def Obligations.RxclrErasesNoByte : Prop :=
  ∀ s : State, s.halted = false → ∃ t, exec .rxclr s = .next t ∧ t.rx = s.rx ∧ t.tx = s.tx

/-- R137: RXPUSH, its words; below `RXMAX` the byte at index `RXLEN` and `RXLEN` one more; at `RXMAX` only `RXOVF`. -/
def Obligations.RxpushAppendsOrOverflows : Prop :=
  Words 0x21 (fun arg => arg.extractLsb' 8 24 = 0) (fun arg => .rxpush (arg.extractLsb' 0 8)) ∧
    (∀ (s : State) (b : Byte), s.halted = false → Memory.wf s.rx = true → s.rxlen.toNat < s.rxMax →
      ∃ t, exec (.rxpush b) s = .next t ∧
        Memory.read t.rx s.rxlen.toNat = b ∧
        (∀ k, k ≠ s.rxlen.toNat → Memory.read t.rx k = Memory.read s.rx k) ∧
        t.rxlen.toNat = s.rxlen.toNat + 1 ∧
        t = { s with rx := t.rx, rxlen := t.rxlen }) ∧
    (∀ (s : State) (b : Byte), s.halted = false → s.rxMax ≤ s.rxlen.toNat →
      ∃ st : Word32, exec (.rxpush b) s = .next { s with status := st } ∧
        st.getLsbD 6 = true ∧ ∀ k, k ≠ 6 → st.getLsbD k = s.status.getLsbD k)

/-- R77, R78, R138: the words of DECODE. -/
def Obligations.DecodeWords : Prop :=
  Words 0x22 (fun arg => arg.extractLsb' 16 16 = 0) (fun arg => .decode (arg.extractLsb' 0 16))

/-- R138, R181, R183: the causes tested before the checksum, in their order: an unsupported count, an overrun, a short
response. DECODE then writes the outcome, the cause and the cleared valid bits and nothing else, `CRC` included (that the
Reading registers, which hold no value then, keep their bits is log 12). -/
def Obligations.DecodeNoDataBeforeChecksum : Prop :=
  ∀ (s : State) (n : Word16) (cause : BitVec 3), s.halted = false →
    ((n ≠ 3 ∧ n ≠ 10 ∧ cause = 2) ∨
      ((n = 3 ∨ n = 10) ∧ s.status.getLsbD 6 = true ∧ cause = 4) ∨
      ((n = 3 ∨ n = 10) ∧ s.status.getLsbD 6 = false ∧ s.rxlen.toNat < 5 + 2 * n.toNat ∧ cause = 1)) →
    ∃ t, exec (.decode n) s = .next t ∧ Decoded s t 2 cause 0 ∧ t = { s with status := t.status }

/-- R147, R138, R59: with the policy on and the earlier tests passed, the checksum of all bytes received but the last two is
left in `CRC`, and the response is accepted exactly when the last two bytes are that checksum, low byte first. A rejected
response writes nothing else but outcome, cause and valid bits (log 12 for the bits of invalid registers). -/
def Obligations.DecodeChecksWholeResponse : Prop :=
  ∀ (s : State) (n : Word16), s.halted = false → PassesEarly n s → s.cfg.getLsbD 8 = true →
    ∃ t c, exec (.decode n) s = .next t ∧
      crc16 (memRead s.rx 0 (s.rxlen.toNat - 2)) = some c ∧ t.crc = c ∧
      (Memory.read s.rx (s.rxlen.toNat - 2) = c.extractLsb' 0 8 ∧
          Memory.read s.rx (s.rxlen.toNat - 1) = c.extractLsb' 8 8 →
        t.status.extractLsb' 0 2 = 1) ∧
      (¬(Memory.read s.rx (s.rxlen.toNat - 2) = c.extractLsb' 0 8 ∧
          Memory.read s.rx (s.rxlen.toNat - 1) = c.extractLsb' 8 8) →
        Decoded s t 2 3 0 ∧ t = { s with status := t.status, crc := t.crc })

/-- R139 to R144, R138: a ten-register response that passes every test. Each field is assembled from its bytes, the six
valid bits are set, `CRC` is written only if the check ran, and nothing else changes (that `S` and `Q`, now invalid, keep
their bits is log 12). -/
def Obligations.DecodeTenExtractsFields : Prop :=
  ∀ s : State, s.halted = false → PassesEarly 10 s →
    (s.cfg.getLsbD 8 = true → crcOk (received s) = true) →
    ∃ t, exec (.decode 10) s = .next t ∧ Decoded s t 1 0 0x3F ∧
      t.regV = Memory.read s.rx 3 ++ Memory.read s.rx 4 ∧
      t.regI = (Memory.read s.rx 7 ++ Memory.read s.rx 8) ++ (Memory.read s.rx 5 ++ Memory.read s.rx 6) ∧
      t.regP = (Memory.read s.rx 11 ++ Memory.read s.rx 12) ++ (Memory.read s.rx 9 ++ Memory.read s.rx 10) ∧
      t.regE = (Memory.read s.rx 15 ++ Memory.read s.rx 16) ++ (Memory.read s.rx 13 ++ Memory.read s.rx 14) ∧
      t.regF = Memory.read s.rx 17 ++ Memory.read s.rx 18 ∧
      t.regPF = Memory.read s.rx 19 ++ Memory.read s.rx 20 ∧
      (s.cfg.getLsbD 8 = false → t.crc = s.crc) ∧
      (s.cfg.getLsbD 8 = true → crc16 (memRead s.rx 0 (s.rxlen.toNat - 2)) = some t.crc) ∧
      t = { s with crc := t.crc, status := t.status, regV := t.regV, regI := t.regI, regP := t.regP,
                   regE := t.regE, regF := t.regF, regPF := t.regPF }

/-- R145, R138: a three-register response that passes every test gives voltage and current only (that the
registers now invalid keep their bits is log 12). -/
def Obligations.DecodeThreeExtractsVoltageAndCurrent : Prop :=
  ∀ s : State, s.halted = false → PassesEarly 3 s →
    (s.cfg.getLsbD 8 = true → crcOk (received s) = true) →
    ∃ t, exec (.decode 3) s = .next t ∧ Decoded s t 1 0 0x03 ∧
      t.regV = Memory.read s.rx 3 ++ Memory.read s.rx 4 ∧
      t.regI = (Memory.read s.rx 7 ++ Memory.read s.rx 8) ++ (Memory.read s.rx 5 ++ Memory.read s.rx 6) ∧
      (s.cfg.getLsbD 8 = false → t.crc = s.crc) ∧
      (s.cfg.getLsbD 8 = true → crc16 (memRead s.rx 0 (s.rxlen.toNat - 2)) = some t.crc) ∧
      t = { s with crc := t.crc, status := t.status, regV := t.regV, regI := t.regI }

/-- R146, R138, R75: the command agrees with the pure decoder on the bytes received. -/
def Obligations.DecodeRefinesPureDecoder : Prop :=
  ∀ (s : State) (n : Word16), s.halted = false → s.status.getLsbD 6 = false →
    ∃ t, exec (.decode n) s = .next t ∧
      outcomeOf t = some (decodeResponse (received s) n (s.cfg.getLsbD 8))

/-- R149: outcome, cause, valid bits and Reading after DECODE are a function of the bytes received, `RXLEN`, `RXOVF`,
`CFG.CRCEN` and n only. -/
def Obligations.DecodeIsPure : Prop :=
  ∀ (s s' : State) (n : Word16), s.halted = false → s'.halted = false →
    s.rxlen = s'.rxlen → (∀ k, k < s.rxlen.toNat → Memory.read s.rx k = Memory.read s'.rx k) →
    s.status.getLsbD 6 = s'.status.getLsbD 6 → s.cfg.getLsbD 8 = s'.cfg.getLsbD 8 →
      ∃ t t', exec (.decode n) s = .next t ∧ exec (.decode n) s' = .next t' ∧
        t.status.extractLsb' 0 5 = t'.status.extractLsb' 0 5 ∧
        t.status.extractLsb' 8 8 = t'.status.extractLsb' 8 8 ∧ outcomeOf t = outcomeOf t'

/-- R149: DECODE does not consume its input: a second DECODE n changes nothing (that the bits of registers invalid after the
first one stay through the second is the model's choice, log 12). -/
def Obligations.DecodeIsIdempotent : Prop :=
  ∀ (s : State) (n : Word16), s.halted = false →
    ∃ t, exec (.decode n) s = .next t ∧ exec (.decode n) t = .next t

/-- R81: RXLOAD leaves exactly its bytes in `RX` when they fit, and the first `RXMAX` of them and `RXOVF` when they do not
(that bytes beyond the list stay is log 11). -/
def Obligations.RxloadFillsBuffer : Prop :=
  ∀ (s : State) (bytes : List Byte), s.halted = false → Memory.wf s.rx = true →
    ∃ t, execAll (pseudoRxload bytes) s = .next t ∧
      received t = bytes.take s.rxMax ∧
      (t.status.getLsbD 6 = true ↔ s.rxMax < bytes.length) ∧
      (∀ k, k ≠ 6 → t.status.getLsbD k = s.status.getLsbD k) ∧
      (∀ k, bytes.length ≤ k → Memory.read t.rx k = Memory.read s.rx k) ∧
      t = { s with rx := t.rx, rxlen := t.rxlen, status := t.status }

/-- R75, R146, R181: the contract `decode(raw_bytes, expected_register_count)` realised by RXLOAD and DECODE, whatever bytes
arrive: the pure decoder's outcome if they fit, "no data" for an overrun if they do not. -/
def Obligations.LoadedResponseIsDecoded : Prop :=
  ∀ (s : State) (bytes : List Byte) (n : Word16), s.halted = false → Memory.wf s.rx = true →
    ∃ t, execAll (pseudoRxload bytes ++ [.decode n]) s = .next t ∧
      (bytes.length ≤ s.rxMax → outcomeOf t = some (decodeResponse bytes n (s.cfg.getLsbD 8))) ∧
      (s.rxMax < bytes.length → n = 3 ∨ n = 10 → outcomeOf t = some (.noData .overrun))

/-! The calculator (spec/43_scale_derive.md). -/

/-- R169: DERIVE, its words; with valid inputs `S` is the exact product, `Q` the floor of the square root of the clamped
radicand, their valid bits are set and nothing else changes; without, it is refused with NOINPUT. -/
def Obligations.DeriveComputesOrRefuses : Prop :=
  Words 0x30 (fun arg => arg = 0) (fun _ => .derive) ∧
    (∀ s : State, s.halted = false →
      s.status.getLsbD 8 = true → s.status.getLsbD 9 = true → s.status.getLsbD 10 = true →
      ∃ t, exec .derive s = .next t ∧
        t.regS.toNat = s.regV.toNat * s.regI.toNat ∧
        ((t.regQ.toNat : Int) * t.regQ.toNat ≤
          max ((t.regS.toNat : Int) * t.regS.toNat - 1000000 * ((s.regP.toNat : Int) * s.regP.toNat)) 0) ∧
        (max ((t.regS.toNat : Int) * t.regS.toNat - 1000000 * ((s.regP.toNat : Int) * s.regP.toNat)) 0 <
          ((t.regQ.toNat : Int) + 1) * (t.regQ.toNat + 1)) ∧
        t.status.getLsbD 14 = true ∧ t.status.getLsbD 15 = true ∧
        (∀ k, k ≠ 14 → k ≠ 15 → t.status.getLsbD k = s.status.getLsbD k) ∧
        t = { s with regS := t.regS, regQ := t.regQ, status := t.status }) ∧
    (∀ s : State, s.halted = false →
      (s.status.getLsbD 8 = false ∨ s.status.getLsbD 9 = false ∨ s.status.getLsbD 10 = false) →
      ∃ t, exec .derive s = .next t ∧ Refused s t 3)

/-- R170: `S` is the ideal apparent power exactly, and `Q` the ideal reactive power rounded down to 0.0001 var. -/
def Obligations.DeriveApproximatesIdealPower : Prop :=
  ∀ s : State, s.halted = false →
    s.status.getLsbD 8 = true → s.status.getLsbD 9 = true → s.status.getLsbD 10 = true →
    ∃ t, exec .derive s = .next t ∧
      ∀ v i p : ℝ, v = (s.regV.toNat : ℝ) / 10 → i = (s.regI.toNat : ℝ) / 1000 → p = (s.regP.toNat : ℝ) / 10 →
        (t.regS.toNat : ℝ) / 10000 = v * i ∧
        (t.regQ.toNat : ℝ) / 10000 ≤ Real.sqrt (max ((v * i) ^ 2 - p ^ 2) 0) ∧
        Real.sqrt (max ((v * i) ^ 2 - p ^ 2) 0) < ((t.regQ.toNat : ℝ) + 1) / 10000

/-- R169, corner cases: `Q` never exceeds `S`; with `P` = 0 they are equal; with 1000 × `P` at least the apparent power
`Q` is 0. -/
def Obligations.DeriveCornerCases : Prop :=
  ∀ s : State, s.halted = false →
    s.status.getLsbD 8 = true → s.status.getLsbD 9 = true → s.status.getLsbD 10 = true →
    ∃ t, exec .derive s = .next t ∧
      t.regQ.toNat ≤ t.regS.toNat ∧
      (s.regP = 0 → t.regQ = t.regS) ∧
      (s.regV.toNat * s.regI.toNat ≤ 1000 * s.regP.toNat → t.regQ = 0) ∧
      exec .derive t = .next t

/-- R160, R28: the physical value of each field of a Reading is the raw integer times its weight, exactly, and a field that
is not valid has none, whichever others are; the other registers have none. -/
def Obligations.ScalerIsExact : Prop :=
  ∀ s : State,
    physical .v s = (if s.status.getLsbD 8 then some ((s.regV.toNat : ℚ) / 10) else none) ∧
    physical .i s = (if s.status.getLsbD 9 then some ((s.regI.toNat : ℚ) / 1000) else none) ∧
    physical .p s = (if s.status.getLsbD 10 then some ((s.regP.toNat : ℚ) / 10) else none) ∧
    physical .e s = (if s.status.getLsbD 11 then some ((s.regE.toNat : ℚ) / 1000) else none) ∧
    physical .f s = (if s.status.getLsbD 12 then some ((s.regF.toNat : ℚ) / 10) else none) ∧
    physical .pf s = (if s.status.getLsbD 13 then some ((s.regPF.toNat : ℚ) / 100) else none) ∧
    physical .s s = (if s.status.getLsbD 14 then some ((s.regS.toNat : ℚ) / 10000) else none) ∧
    physical .q s = (if s.status.getLsbD 15 then some ((s.regQ.toNat : ℚ) / 10000) else none) ∧
    ∀ r : Reg, r = .crc ∨ r = .cfg ∨ r = .status ∨ r = .rxlen ∨ r = .func → physical r s = none

/-- R196: the payload of a Reading whose eight fields are valid carries the six decoded values exactly and the two derived
ones rounded to two decimals, in whatever mode (log 22). -/
def Obligations.PayloadCarriesReading : Prop :=
  ∀ (deviceId : String) (timestamp : Nat) (s : State), s.status.extractLsb' 8 8 = 0xFF →
    payloadOf deviceId timestamp s = some ⟨deviceId, (s.regV.toNat : ℚ) / 10, (s.regI.toNat : ℚ) / 1000,
      (s.regP.toNat : ℚ) / 10, (s.regE.toNat : ℚ) / 1000, (s.regF.toNat : ℚ) / 10, (s.regPF.toNat : ℚ) / 100,
      Config.payloadRound 2 ((s.regS.toNat : ℚ) / 10000), Config.payloadRound 2 ((s.regQ.toNat : ℚ) / 10000), timestamp⟩

/-! Outcomes, refusals, reset, observation (spec/60_exceptions.md, spec/70_reset_and_hazards.md, spec/10_state.md). -/

/-- R10: every instruction ends in a next state; none faults or is left without a meaning. That the states of a halted block
are among them, where R186 gives a model no further step, is log 6; that the three wire rows, to which the spec gives no
execution, are among the instructions is logs 8 and 9. -/
def Obligations.EveryInstructionCompletes : Prop :=
  ∀ (i : Instr) (s : State), ∃ t, exec i s = .next t

/-- R185, R184: a command that halts a block is a BUILDREQ of count 0, with code BADCOUNT, or a DERIVE without one of its
inputs, with code NOINPUT, and it writes `ERR` and `ERRCODE` alone. -/
def Obligations.RefusalsAreThese : Prop :=
  ∀ (i : Instr) (s t : State), exec i s = .next t → s.halted = false → t.halted = true →
    (∃ start, i = .buildreq start 0 ∧ Refused s t 2) ∨
      (i = .derive ∧ Refused s t 3 ∧
        (s.status.getLsbD 8 = false ∨ s.status.getLsbD 9 = false ∨ s.status.getLsbD 10 = false))

/-- R78, R184: a command word that no row of the map selects is refused with ILLCMD, and only such a word is no
instruction. -/
def Obligations.UnmappedWordsAreRefused : Prop :=
  ∀ w : CommandWord,
    ((∃ row ∈ opcodeMap, w &&& row.2 = row.1) ↔ ∃ i, decodeCommand w = .ok i) ∧
    ((∀ row ∈ opcodeMap, w &&& row.2 ≠ row.1) → ∀ (s : State) (rest : List HostAction),
      s.pending = .command w :: rest → s.halted = false →
        ∃ t, step s = .next t ∧ Refused { s with pending := rest } t 1)

/-- R186: while `ERR` is 1 every command word presented is ignored and the block's state does not change; observation
still works. That this is a step of the model, a next state with the word taken off the host's list, is log 6: the rule's
last sentence gives a refused state no further step. -/
def Obligations.HaltedBlockIgnoresCommands : Prop :=
  ∀ s : State, s.status.getLsbD 7 = true →
    (∀ (w : CommandWord) (rest : List HostAction), s.pending = .command w :: rest →
      step s = .next { s with pending := rest }) ∧
    (∀ (l : Loc) (v : Word48) (rest : List HostAction), s.pending = .observe l :: rest →
      l.exists s = true → l.value s = some v → step s = .next { s with pending := rest, observed := some v })

/-- R210: only reset clears `ERR`, `ERRCODE` and `TXV` and brings `OUTCOME` back to NONE. -/
def Obligations.OnlyResetClearsStickyStatus : Prop :=
  ∀ s t : State, step s = .next t → (∀ rest, s.pending ≠ .reset :: rest) →
    (s.status.getLsbD 7 = true → t.status.getLsbD 7 = true ∧
      t.status.extractLsb' 16 4 = s.status.extractLsb' 16 4) ∧
    (s.status.getLsbD 5 = true → t.status.getLsbD 5 = true) ∧
    (s.status.extractLsb' 0 2 ≠ 0 → t.status.extractLsb' 0 2 ≠ 0)

/-- R35, R210: the reset event, in any state, halted or not: the values the spec gives; no Reading register and no byte of
either buffer holds a value. -/
def Obligations.ResetGivesSpecifiedState : Prop :=
  ∀ (s : State) (rest : List HostAction), s.pending = .reset :: rest →
    ∃ t, step s = .next t ∧ t.crc = 0xFFFF ∧
      t.cfg.extractLsb' 0 8 = 0x01 ∧ t.cfg.getLsbD 8 = false ∧ t.cfg.extractLsb' 9 7 = 0 ∧
      t.status = 0 ∧ t.rxlen = 0 ∧
      (∀ r : Reg, r = .v ∨ r = .i ∨ r = .p ∨ r = .e ∨ r = .f ∨ r = .pf ∨ r = .s ∨ r = .q →
        (Loc.reg r).value t = none) ∧
      (∀ k, (Loc.tx k).value t = none ∧ (Loc.rx k).value t = none) ∧
      (Loc.reg .func).value t = some 0x04

/-- The model's own (log 7): `RXMAX`, the host's remaining actions, what was observed and what is on the line are no state
of the block, and the reset event leaves them. -/
def Obligations.ResetKeepsHostSide : Prop :=
  ∀ (s : State) (rest : List HostAction), s.pending = .reset :: rest →
    ∃ t, step s = .next t ∧ t.rxSize = s.rxSize ∧ t.pending = rest ∧ t.observed = s.observed ∧ t.line = s.line

/-- R33: an observation of a location that holds a value returns it and changes nothing of the block. -/
def Obligations.ObservationHasNoSideEffect : Prop :=
  ∀ (s : State) (l : Loc) (v : Word48) (rest : List HostAction), s.pending = .observe l :: rest →
    l.exists s = true → l.value s = some v →
      step s = .next { s with pending := rest, observed := some v }

/-- R33, R28, R29, R30, R31, R50: which locations hold a value, and which value: the registers, the Reading registers while
valid, the eight bytes of `TX` while `TXV` is 1, the bytes of `RX` below `RXLEN`, `FUNC` always 0x04; no index that a buffer
does not have. -/
def Obligations.ObservableValues : Prop :=
  ∀ s : State,
    (Loc.reg .crc).value s = some (s.crc.setWidth 48) ∧
    (Loc.reg .cfg).value s = some (s.cfg.setWidth 48) ∧
    (Loc.reg .status).value s = some (s.status.setWidth 48) ∧
    (Loc.reg .rxlen).value s = some (s.rxlen.setWidth 48) ∧
    (Loc.reg .func).value s = some 0x04 ∧
    (Loc.reg .v).value s = (if s.status.getLsbD 8 then some (s.regV.setWidth 48) else none) ∧
    (Loc.reg .i).value s = (if s.status.getLsbD 9 then some (s.regI.setWidth 48) else none) ∧
    (Loc.reg .p).value s = (if s.status.getLsbD 10 then some (s.regP.setWidth 48) else none) ∧
    (Loc.reg .e).value s = (if s.status.getLsbD 11 then some (s.regE.setWidth 48) else none) ∧
    (Loc.reg .f).value s = (if s.status.getLsbD 12 then some (s.regF.setWidth 48) else none) ∧
    (Loc.reg .pf).value s = (if s.status.getLsbD 13 then some (s.regPF.setWidth 48) else none) ∧
    (Loc.reg .s).value s = (if s.status.getLsbD 14 then some s.regS else none) ∧
    (Loc.reg .q).value s = (if s.status.getLsbD 15 then some s.regQ else none) ∧
    (∀ k, (Loc.tx k).value s =
      if k < 8 ∧ s.status.getLsbD 5 = true then some ((Memory.read s.tx k).setWidth 48) else none) ∧
    (∀ k, (Loc.rx k).value s =
      if k < s.rxMax ∧ k < s.rxlen.toNat then some ((Memory.read s.rx k).setWidth 48) else none)

/-- The model's own (logs 5 and 12, from spec/93_implementation_defined.md U9, U10): an observation of a location without a
value, or of one that does not exist, is a fault. -/
def Obligations.UnspecifiedObservationFaults : Prop :=
  ∀ (s : State) (l : Loc) (rest : List HostAction), s.pending = .observe l :: rest →
    (l.exists s = false → step s = .fault (.noSuchLocation l)) ∧
    (l.exists s = true → l.value s = none → step s = .fault (.unspecifiedRead l))

/-- R34, R21: which instruction can write what. The wire rows (logs 8 and 9) write what the commands they stand for
write. -/
def Obligations.OnlyTheListedCommandsWrite : Prop :=
  ∀ (i : Instr) (s t : State), exec i s = .next t →
    (t.crc ≠ s.crc → i = .crcinit ∨ (∃ b, i = .crcbyte b) ∨ (∃ x y, i = .buildreq x y) ∨ (∃ n, i = .decode n) ∨
      (∃ r, i = .responseN10 r) ∨ ∃ r, i = .responseN3 r) ∧
    (t.cfg ≠ s.cfg → (∃ a, i = .setaddr a) ∨ ∃ e, i = .setcrcen e) ∧
    (t.status ≠ s.status → (∃ x y, i = .buildreq x y) ∨ i = .rxclr ∨ (∃ b, i = .rxpush b) ∨ (∃ n, i = .decode n) ∨
      i = .derive ∨ (∃ r, i = .responseN10 r) ∨ ∃ r, i = .responseN3 r) ∧
    (t.rxlen ≠ s.rxlen → i = .rxclr ∨ (∃ b, i = .rxpush b) ∨ (∃ r, i = .responseN10 r) ∨ ∃ r, i = .responseN3 r) ∧
    ((t.regV, t.regI) ≠ (s.regV, s.regI) → (∃ n, i = .decode n) ∨ (∃ r, i = .responseN10 r) ∨ ∃ r, i = .responseN3 r) ∧
    ((t.regP, t.regE, t.regF, t.regPF) ≠ (s.regP, s.regE, s.regF, s.regPF) →
      (∃ n, i = .decode n) ∨ ∃ r, i = .responseN10 r) ∧
    ((t.regS, t.regQ) ≠ (s.regS, s.regQ) → i = .derive) ∧
    (t.tx ≠ s.tx → ∃ x y, i = .buildreq x y) ∧
    (t.rx ≠ s.rx → (∃ b, i = .rxpush b) ∨ (∃ r, i = .responseN10 r) ∨ ∃ r, i = .responseN3 r) ∧
    (t.line ≠ s.line → ∃ f, i = .requestFrame f) ∧
    t.rxSize = s.rxSize ∧ t.pending = s.pending ∧ t.observed = s.observed

/-! The wire rows (spec/30_encoding.md R70, R72). -/

/-- The model's reading of REQUEST_FRAME (log 8): the host writes the frame's 8 bytes to the device, byte 0 first, and
nothing of the block changes, halted or not. -/
def Obligations.RequestFrameGoesToLine : Prop :=
  ∀ (s : State) (f : RequestFrame),
    exec (.requestFrame f) s = .next { s with line :=
      [f.addr, 0x04, f.start.extractLsb' 8 8, f.start.extractLsb' 0 8, f.count.extractLsb' 8 8,
        f.count.extractLsb' 0 8, f.crcLo, f.crcHi] }

/-- The model's reading of RESPONSE_N10 (log 9): RXLOAD of its bytes and DECODE 10. The fields reach their registers as R72
assembles them unless the policy is on and the trailer is wrong, which gives NODATA, CRCFAIL. That the bytes of `RX` from index 25 on stay is log 11; that `S` and `Q`, and every register
after a NODATA, invalid then, keep their bits is log 12. -/
def Obligations.ResponseN10IsLoadedAndDecoded : Prop :=
  ∀ (s : State) (r : ResponseN10), s.halted = false → Memory.wf s.rx = true →
    ∃ t, exec (.responseN10 r) s = .next t ∧
      execAll (pseudoRxload (encode (.responseN10 r)) ++ [.decode 10]) s = .next t ∧
      received t = encode (.responseN10 r) ∧
      t.status.getLsbD 6 = false ∧
      (∀ k, k = 5 ∨ k = 7 ∨ 16 ≤ k → t.status.getLsbD k = s.status.getLsbD k) ∧
      (s.cfg.getLsbD 8 = false ∨ crcOk (encode (.responseN10 r)) = true →
        t.status.extractLsb' 0 5 = 1 ∧ readingOf t = ⟨some r.volt, some (r.currHi ++ r.currLo), some (r.powerHi ++ r.powerLo),
          some (r.energyHi ++ r.energyLo), some r.freq, some r.factor, none, none⟩) ∧
      (s.cfg.getLsbD 8 = true ∧ crcOk (encode (.responseN10 r)) = false →
        outcomeOf t = some (.noData .crcFail)) ∧
      (s.cfg.getLsbD 8 = false → t.crc = s.crc) ∧
      (s.cfg.getLsbD 8 = true → crc16 ((encode (.responseN10 r)).take 23) = some t.crc) ∧
      (∀ k, 25 ≤ k → Memory.read t.rx k = Memory.read s.rx k) ∧
      t = { s with crc := t.crc, status := t.status, rxlen := t.rxlen, rx := t.rx, regV := t.regV, regI := t.regI,
                   regP := t.regP, regE := t.regE, regF := t.regF, regPF := t.regPF }

/-- The model's reading of RESPONSE_N3 (log 9): RXLOAD of its bytes and DECODE 3. That the bytes of `RX` from index 11 on
stay is log 11; that `P`, `E`, `F`, `PF`, `S` and `Q`, and every register after a NODATA, invalid then, keep their bits is
log 12. -/
def Obligations.ResponseN3IsLoadedAndDecoded : Prop :=
  ∀ (s : State) (r : ResponseN3), s.halted = false → Memory.wf s.rx = true →
    ∃ t, exec (.responseN3 r) s = .next t ∧
      execAll (pseudoRxload (encode (.responseN3 r)) ++ [.decode 3]) s = .next t ∧
      received t = encode (.responseN3 r) ∧
      t.status.getLsbD 6 = false ∧
      (∀ k, k = 5 ∨ k = 7 ∨ 16 ≤ k → t.status.getLsbD k = s.status.getLsbD k) ∧
      (s.cfg.getLsbD 8 = false ∨ crcOk (encode (.responseN3 r)) = true →
        t.status.extractLsb' 0 5 = 1 ∧ readingOf t = ⟨some r.volt, some (r.currHi ++ r.currLo), none, none, none, none, none, none⟩) ∧
      (s.cfg.getLsbD 8 = true ∧ crcOk (encode (.responseN3 r)) = false →
        outcomeOf t = some (.noData .crcFail)) ∧
      (s.cfg.getLsbD 8 = false → t.crc = s.crc) ∧
      (s.cfg.getLsbD 8 = true → crc16 ((encode (.responseN3 r)).take 9) = some t.crc) ∧
      (∀ k, 11 ≤ k → Memory.read t.rx k = Memory.read s.rx k) ∧
      t = { s with crc := t.crc, status := t.status, rxlen := t.rxlen, rx := t.rx, regV := t.regV, regI := t.regI }

/-! Encoding and the step (spec/30_encoding.md). -/

/-- Decoding an encoded instruction gives it back, every operand at every value. -/
def Obligations.DecodeOfEncode : Prop :=
  ∀ i : Instr, decodeBytes (encode i) = .ok i

/-- Bytes that decode are the encoding of what they decode to: each word has one meaning, and no bit is dropped. -/
def Obligations.EncodeOfDecode : Prop :=
  ∀ (bytes : List Byte) (i : Instr), decodeBytes bytes = .ok i → encode i = bytes

/-- R77: the decoder's rows are those of the opcode map, in its order; no word is selected by two of them; and a word that
one selects is decoded by that row. -/
def Obligations.OpcodeRowsDoNotOverlap : Prop :=
  commandRows.map (fun r => (r.fixed, r.mask)) = opcodeMap ∧
    commandRows.Pairwise (fun a b => ∀ w : CommandWord, ¬(a.selects w = true ∧ b.selects w = true)) ∧
    ∀ (w : CommandWord) (r : CommandRow), r ∈ commandRows → r.selects w = true → decodeCommand w = .ok (r.build w)

/-- A few words written out from R77, R70 and R72 decode to what they stand for. -/
def Obligations.SampleWordsDecode : Prop :=
  decodeTableWord 40 0x0100000000 = some .crcinit ∧
    decodeTableWord 40 0x0200000001 = some (.crcbyte 0x01) ∧
    decodeTableWord 40 0x120000000A = some (.buildreq 0x0000 0x000A) ∧
    decodeTableWord 40 0x220000000A = some (.decode 10) ∧
    decodeTableWord 40 0x3000000000 = some .derive ∧
    decodeTableWord 64 0x010400000003B00B = some (.requestFrame ⟨0x01, 0x0000, 0x0003, 0xB0, 0x0B⟩) ∧
    decodeTableWord 40 0x2200010000 = none ∧ decodeTableWord 40 0x1300000000 = none

/-- A step runs the decoded instruction: a command word or a wire frame that decodes to an instruction is taken off the
host's list and executed; with nothing pending the state is held (R198). -/
def Obligations.StepRunsDecodedInstruction : Prop :=
  ∀ s : State,
    (∀ w i rest, s.pending = .command w :: rest → decodeCommand w = .ok i →
      step s = exec i { s with pending := rest }) ∧
    (∀ bytes i rest, s.pending = .wire bytes :: rest → decodeFrame bytes = .ok i →
      step s = exec i { s with pending := rest }) ∧
    (s.pending = [] → step s = .next s)

/-! The invariant. -/

/-- The invariant holds at reset, for every size of the RX buffer. -/
def Obligations.InvariantHoldsAtReset : Prop :=
  ∀ size : Config.RxSize, BlockInv (State.atReset size)

/-- Every step keeps the invariant: reserved bits zero, legal outcome, cause and refusal codes, valid bits of a Reading,
`RXLEN` at most `RXMAX`, both buffers canonical and within their sizes, a right frame in `TX` while `TXV`, and derived
quantities that are those of the Reading while they are valid. -/
def Obligations.StepKeepsInvariant : Prop :=
  ∀ s t : State, BlockInv s → step s = .next t → BlockInv t

/-! The polling loop (spec/60_exceptions.md R190, R191; log 17). -/

/-- R191: a cycle on a block that accepts commands sends the built frame to the device, reaches DECODE whatever bytes
arrive, and hands exactly one outcome to the sink, that of the pure decoder if the bytes fit the buffer, a ten-register Reading with the
apparent and reactive power of its own `V`, `I` and `P` added (R169). -/
def Obligations.PollCycleProducesOneOutcome : Prop :=
  ∀ (n : PollCount) (bytes : List Byte) (L : PollLoop),
    L.phase = .idle → L.block.halted = false → Memory.wf L.block.rx = true → Memory.wf L.block.tx = true →
    ∃ M N o, pollStep n .tick L = .next M ∧ M.phase = .polling ∧ M.sink = L.sink ∧
      M.block.line = buildRequest (L.block.cfg.extractLsb' 0 8) 0 n.word ∧
      pollStep n (.arrived bytes) M = .next N ∧ N.phase = .idle ∧ N.sink = o :: L.sink ∧
      N.block.halted = false ∧
      (L.block.rxMax < bytes.length → o = .noData .overrun) ∧
      (bytes.length ≤ L.block.rxMax →
        (∀ c, decodeResponse bytes n.word (L.block.cfg.getLsbD 8) = .noData c → o = .noData c) ∧
        (∀ r, decodeResponse bytes n.word (L.block.cfg.getLsbD 8) = .reading r →
          (n = .three → o = .reading r) ∧
          (n = .ten → ∃ v i p sv qv, r.v = some v ∧ r.i = some i ∧ r.p = some p ∧
            sv.toNat = v.toNat * i.toNat ∧
            ((qv.toNat : Int) * qv.toNat ≤
              max ((sv.toNat : Int) * sv.toNat - 1000000 * ((p.toNat : Int) * p.toNat)) 0) ∧
            (max ((sv.toNat : Int) * sv.toNat - 1000000 * ((p.toNat : Int) * p.toNat)) 0 <
              ((qv.toNat : Int) + 1) * (qv.toNat + 1)) ∧
            o = .reading { r with s := some sv, q := some qv })))

/-! Bytes without a layout, and where a step stops. -/

/-- R191, R73, R81 as the model reads them (log 10): wire bytes of no layout, whatever they are, reach the block as RXLOAD of
them; a halted block ignores them (log 6). -/
def Obligations.StrayBytesAreLoaded : Prop :=
  ∀ (s : State) (bytes : List Byte) (e : DecodeError) (rest : List HostAction),
    s.pending = .wire bytes :: rest → decodeFrame bytes = .error e → Memory.wf s.rx = true →
    (s.halted = false → ∃ t, step s = .next t ∧ execAll (pseudoRxload bytes) { s with pending := rest } = .next t ∧
      received t = bytes.take s.rxMax ∧ (t.status.getLsbD 6 = true ↔ s.rxMax < bytes.length)) ∧
    (s.halted = true → step s = .next { s with pending := rest })

/-- The model's own (logs 5 and 12, from R28, R50, U9, U10): a step answers a next state unless the host observes a location
that does not exist or holds no value; it is never refused by the model. -/
def Obligations.StepStopsOnlyOnUnspecifiedObservation : Prop :=
  ∀ s : State, (∃ t, step s = .next t) ∨
    ∃ l rest, s.pending = .observe l :: rest ∧
      ((l.exists s = false ∧ step s = .fault (.noSuchLocation l)) ∨
        (l.exists s = true ∧ l.value s = none ∧ step s = .fault (.unspecifiedRead l)))
end

