-- ==== Sys2Proof/Laws/Bits.lean ====
section
/-! SUPPORT. A field written in place: what is read back, and that every other field and bit stays. -/

namespace Sys2Proof.Machine

/-- Bit by bit: inside the field the new value, outside the old word. -/
theorem getLsbD_putField {width len : Nat} (w : BitVec width) (lo : Nat) (v : BitVec len) (k : Nat) :
    (putField w lo v).getLsbD k =
      if lo ≤ k ∧ k < lo + len ∧ k < width then v.getLsbD (k - lo) else w.getLsbD k := by
  simp only [putField, BitVec.getLsbD_or, BitVec.getLsbD_and, BitVec.getLsbD_not, BitVec.getLsbD_shiftLeft,
    BitVec.getLsbD_setWidth, BitVec.getLsbD_allOnes]
  by_cases h : lo ≤ k ∧ k < lo + len ∧ k < width
  · have h1 : ¬ k < lo := by omega
    have h2 : k - lo < len := by omega
    have h3 : k - lo < width := by omega
    simp [h, h1, h2, h3]
  · rw [if_neg h]
    by_cases hk : k < width
    · by_cases hl : k < lo
      · simp [hk, hl]
      · have h2 : ¬ k - lo < len := by omega
        simp [hk, hl, h2, BitVec.getLsbD_of_ge v (k - lo) (by omega)]
    · simp [hk, BitVec.getLsbD_of_ge w k (by omega)]

/-- The field written is read back. -/
theorem extract_putField_same {width len : Nat} (w : BitVec width) (lo : Nat) (v : BitVec len)
    (h : lo + len ≤ width) : (putField w lo v).extractLsb' lo len = v := by
  apply BitVec.eq_of_getLsbD_eq
  intro k hk
  rw [BitVec.getLsbD_extractLsb', getLsbD_putField, if_pos (by omega)]
  simp only [hk, decide_true, Bool.true_and, Nat.add_sub_cancel_left]

/-- A field apart from the one written is unchanged. -/
theorem extract_putField_other {width len : Nat} (w : BitVec width) (lo : Nat) (v : BitVec len) (lo' len' : Nat)
    (h : lo' + len' ≤ lo ∨ lo + len ≤ lo') :
    (putField w lo v).extractLsb' lo' len' = w.extractLsb' lo' len' := by
  apply BitVec.eq_of_getLsbD_eq
  intro k hk
  rw [BitVec.getLsbD_extractLsb', BitVec.getLsbD_extractLsb', getLsbD_putField, if_neg (by omega)]

/-- A bit outside the field written is unchanged. -/
theorem getLsbD_putField_other {width len : Nat} (w : BitVec width) (lo : Nat) (v : BitVec len) (k : Nat)
    (h : k < lo ∨ lo + len ≤ k) : (putField w lo v).getLsbD k = w.getLsbD k := by
  have : ¬(lo ≤ k ∧ k < lo + len ∧ k < width) := by omega
  simp [getLsbD_putField, this]

/-- The bit written is read back, and every other bit stays. -/
theorem getLsbD_putBit {width : Nat} (w : BitVec width) (lo : Nat) (b : Bool) (k : Nat) :
    (putBit w lo b).getLsbD k = if k = lo ∧ k < width then b else w.getLsbD k := by
  rw [putBit, getLsbD_putField]
  by_cases h : k = lo ∧ k < width
  · rw [if_pos (by omega), if_pos h, h.1, Nat.sub_self, BitVec.getLsbD_ofBool]
    rfl
  · rw [if_neg (by omega), if_neg h]

/-- A field that does not hold the bit written is unchanged. -/
theorem extract_putBit_other {width : Nat} (w : BitVec width) (lo : Nat) (b : Bool) (lo' len' : Nat)
    (h : lo' + len' ≤ lo ∨ lo + 1 ≤ lo') :
    (putBit w lo b).extractLsb' lo' len' = w.extractLsb' lo' len' :=
  extract_putField_other w lo _ lo' len' h

/-- A field written twice holds what was written last. -/
theorem putField_putField {width len : Nat} (w : BitVec width) (lo : Nat) (u v : BitVec len) :
    putField (putField w lo u) lo v = putField w lo v := by
  apply BitVec.eq_of_getLsbD_eq
  intro k hk
  simp only [getLsbD_putField]
  split <;> simp_all

section
variable (st : Word32) (o : BitVec 2) (c : BitVec 3) (m : BitVec 8)

/-- The bits DECODE does not write (spec/42_decode.md R138). -/
theorem getLsbD_putDecode_other (k : Nat) (h : (5 ≤ k ∧ k < 8) ∨ 16 ≤ k) :
    (putDecode st o c m).getLsbD k = st.getLsbD k := by
  rw [putDecode, getLsbD_putField_other, getLsbD_putField_other, getLsbD_putField_other] <;> omega

@[simp] theorem stOutcome_putDecode : stOutcome (putDecode st o c m) = o := by
  simp [stOutcome, putDecode, extract_putField_other, extract_putField_same]

@[simp] theorem stCause_putDecode : stCause (putDecode st o c m) = c := by
  simp [stCause, putDecode, extract_putField_other, extract_putField_same]

@[simp] theorem stValid_putDecode : stValid (putDecode st o c m) = m := by
  simp [stValid, putDecode, extract_putField_same]

@[simp] theorem stTxv_putDecode : stTxv (putDecode st o c m) = stTxv st := by
  rw [stTxv, stTxv, getLsbD_putDecode_other]; omega

@[simp] theorem stRxOvf_putDecode : stRxOvf (putDecode st o c m) = stRxOvf st := by
  rw [stRxOvf, stRxOvf, getLsbD_putDecode_other]; omega

@[simp] theorem stErr_putDecode : stErr (putDecode st o c m) = stErr st := by
  rw [stErr, stErr, getLsbD_putDecode_other]; omega

@[simp] theorem stErrCode_putDecode : stErrCode (putDecode st o c m) = stErrCode st := by
  simp [stErrCode, putDecode, extract_putField_other]

/-- A second DECODE's outcome replaces the first's. -/
theorem putDecode_putDecode (o' : BitVec 2) (c' : BitVec 3) (m' : BitVec 8) :
    putDecode (putDecode st o c m) o' c' m' = putDecode st o' c' m' := by
  apply BitVec.eq_of_getLsbD_eq
  intro k hk
  simp only [putDecode, getLsbD_putField]
  by_cases h8 : 8 ≤ k ∧ k < 8 + 8 ∧ k < 32
  · simp only [h8, and_self, if_true]
  · by_cases h2 : 2 ≤ k ∧ k < 2 + 3 ∧ k < 32
    · simp only [h2, and_self, if_true]
    · simp only [h8, h2, if_false]
      split <;> rfl

end

section
variable (st : Word32) (r : RefuseCode)

/-- The bits a refusal does not write (spec/60_exceptions.md R184). -/
theorem getLsbD_putRefuse_other (k : Nat) (h : k ≠ 7) (h' : k < 16 ∨ 20 ≤ k) :
    (putRefuse st r).getLsbD k = st.getLsbD k := by
  rw [putRefuse, getLsbD_putField_other _ _ _ _ (by omega), getLsbD_putBit]
  simp [h]

@[simp] theorem stErr_putRefuse : stErr (putRefuse st r) = true := by
  rw [stErr, putRefuse, getLsbD_putField_other _ _ _ _ (by omega), getLsbD_putBit]; rfl

@[simp] theorem stErrCode_putRefuse : stErrCode (putRefuse st r) = r.code := by
  simp [stErrCode, putRefuse, extract_putField_same]

@[simp] theorem stOutcome_putRefuse : stOutcome (putRefuse st r) = stOutcome st := by
  simp [stOutcome, putRefuse, extract_putField_other, extract_putBit_other]

@[simp] theorem stCause_putRefuse : stCause (putRefuse st r) = stCause st := by
  simp [stCause, putRefuse, extract_putField_other, extract_putBit_other]

@[simp] theorem stTxv_putRefuse : stTxv (putRefuse st r) = stTxv st := by
  rw [stTxv, stTxv, getLsbD_putRefuse_other] <;> omega

@[simp] theorem stRxOvf_putRefuse : stRxOvf (putRefuse st r) = stRxOvf st := by
  rw [stRxOvf, stRxOvf, getLsbD_putRefuse_other] <;> omega

@[simp] theorem stValid_putRefuse : stValid (putRefuse st r) = stValid st := by
  simp [stValid, putRefuse, extract_putField_other, extract_putBit_other]

end

/-- The upper part of a concatenation. -/
theorem extract_append_high {n m : Nat} (x : BitVec n) (y : BitVec m) : (x ++ y).extractLsb' m n = x := by
  apply BitVec.eq_of_getLsbD_eq
  intro k hk
  rw [BitVec.getLsbD_extractLsb', BitVec.getLsbD_append, if_neg (by omega)]
  simp [hk]

/-- The lower part of a concatenation. -/
theorem extract_append_low {n m : Nat} (x : BitVec n) (y : BitVec m) : (x ++ y).extractLsb' 0 m = y := by
  apply BitVec.eq_of_getLsbD_eq
  intro k hk
  rw [BitVec.getLsbD_extractLsb', BitVec.getLsbD_append, if_pos (by omega)]
  simp [hk]

/-- A field of the upper part of a concatenation. -/
theorem extract_append_upper {n m : Nat} (x : BitVec n) (y : BitVec m) (lo len : Nat) :
    (x ++ y).extractLsb' (m + lo) len = x.extractLsb' lo len := by
  apply BitVec.eq_of_getLsbD_eq
  intro k hk
  rw [BitVec.getLsbD_extractLsb', BitVec.getLsbD_append, if_neg (by omega), BitVec.getLsbD_extractLsb',
    Nat.add_assoc, Nat.add_sub_cancel_left]

/-- A 16-bit word is its two bytes put together (spec/20_memory.md R51). -/
theorem append_extract_word (w : BitVec 16) : w.extractLsb' 8 8 ++ w.extractLsb' 0 8 = w := by
  apply BitVec.eq_of_getLsbD_eq
  intro k hk
  rw [BitVec.getLsbD_append, BitVec.getLsbD_extractLsb', BitVec.getLsbD_extractLsb']
  by_cases e : k < 8
  · simp [e]
  · have e1 : k - 8 < 8 := by omega
    have e2 : 8 + (k - 8) = k := by omega
    simp [e, e1, e2]

end Sys2Proof.Machine
end

