-- ==== Sys2Proof/Laws/Crc.lean ====
section
/-! SUPPORT. The small lemmas of the CRC functions and the frames. -/

namespace Sys2Proof.Machine

@[simp] theorem crcFold_nil (a : Word16) : crcFold a [] = a := rfl

@[simp] theorem crcFold_cons (a : Word16) (b : Byte) (bs : List Byte) :
    crcFold a (b :: bs) = crcFold (crcByte a b) bs := rfl

/-- The fold over a concatenation (spec/40_crc.md R107 (b)). -/
theorem crcFold_append (a : Word16) (s t : List Byte) : crcFold a (s ++ t) = crcFold (crcFold a s) t := by
  simp [crcFold]

@[simp] theorem crc16_nil : crc16 [] = none := rfl

@[simp] theorem crc16_cons (b : Byte) (bs : List Byte) : crc16 (b :: bs) = some (crcFold crcInit (b :: bs)) := rfl

/-- A non-empty sequence has the fold as its checksum (R102). -/
theorem crc16_of_ne_nil {s : List Byte} (h : s ≠ []) : crc16 s = some (crcFold crcInit s) := by
  cases s with
  | nil => exact absurd rfl h
  | cons b bs => rfl

@[simp] theorem length_requestBody (a : Byte) (s n : Word16) : (requestBody a s n).length = 6 := rfl

@[simp] theorem length_buildRequest (a : Byte) (s n : Word16) : (buildRequest a s n).length = 8 := rfl

@[simp] theorem length_responseN3Bytes (r : ResponseN3) : (responseN3Bytes r).length = 11 := rfl

@[simp] theorem length_responseN10Bytes (r : ResponseN10) : (responseN10Bytes r).length = 25 := rfl

@[simp] theorem length_requestFrameBytes (f : RequestFrame) : (requestFrameBytes f).length = 8 := rfl

end Sys2Proof.Machine
end

