-- ==== Sys2Proof/Laws/Memory.lean ====
section
/-! SUPPORT. The buffers: a read after a write, everything else unchanged, and that every operation keeps the canonical
form and the buffer's bounds. -/

namespace Sys2Proof.Machine

/-- In a canonical list every index below its first reads as unlisted. -/
theorem Memory.read_of_wfFrom {lo : Nat} {m : Memory} (h : Memory.wfFrom lo m = true) {k : Nat} (hk : k < lo) :
    Memory.read m k = unlistedByte := by
  induction m generalizing lo with
  | nil => rfl
  | cons c m ih =>
    obtain ⟨a, b⟩ := c
    simp only [Memory.wfFrom, Bool.and_eq_true, decide_eq_true_eq] at h
    have : a ≠ k := by omega
    simp only [Memory.read, this, if_false]
    exact ih h.2 (by omega)

theorem Memory.wfFrom_mono {lo lo' : Nat} {m : Memory} (h : Memory.wfFrom lo m = true) (hl : lo' ≤ lo) :
    Memory.wfFrom lo' m = true := by
  cases m with
  | nil => rfl
  | cons c m =>
    simp only [Memory.wfFrom, Bool.and_eq_true, decide_eq_true_eq] at h ⊢
    exact ⟨⟨by omega, h.1.2⟩, h.2⟩

/-- The byte written is read back, in a canonical buffer. -/
theorem Memory.read_write_same {lo : Nat} {m : Memory} (h : Memory.wfFrom lo m = true) (k : Nat) (v : Byte) :
    Memory.read (Memory.write m k v) k = v := by
  induction m generalizing lo with
  | nil => by_cases hv : v = unlistedByte <;> simp [Memory.write, Memory.read, hv]
  | cons c m ih =>
    obtain ⟨a, b⟩ := c
    have h0 := h
    simp only [Memory.wfFrom, Bool.and_eq_true, decide_eq_true_eq] at h
    by_cases h1 : k < a
    · by_cases hv : v = unlistedByte
      · have h2 : Memory.wfFrom (k + 1) ((a, b) :: m) = true := by
          simp only [Memory.wfFrom, Bool.and_eq_true, decide_eq_true_eq]
          exact ⟨⟨by omega, h.1.2⟩, h.2⟩
        simp only [Memory.write, h1, hv, if_true]
        exact Memory.read_of_wfFrom h2 (by omega)
      · simp [Memory.write, Memory.read, h1, hv]
    · by_cases h2 : k = a
      · subst h2
        by_cases hv : v = unlistedByte
        · simp only [Memory.write, hv, if_true, lt_irrefl, if_false]
          exact Memory.read_of_wfFrom h.2 (by omega)
        · simp [Memory.write, Memory.read, hv]
      · have h3 : a ≠ k := fun e => h2 e.symm
        simp only [Memory.write, Memory.read, h1, h2, h3, if_false]
        exact ih h.2

/-- Every other byte reads as before, whatever the form of the buffer. -/
theorem Memory.read_write_other (m : Memory) {k j : Nat} (v : Byte) (hj : j ≠ k) :
    Memory.read (Memory.write m k v) j = Memory.read m j := by
  induction m with
  | nil =>
    by_cases hv : v = unlistedByte
    · simp [Memory.write, hv]
    · simp [Memory.write, Memory.read, hv, Ne.symm hj]
  | cons c m ih =>
    obtain ⟨a, b⟩ := c
    by_cases h1 : k < a
    · by_cases hv : v = unlistedByte
      · simp [Memory.write, h1, hv]
      · simp [Memory.write, Memory.read, h1, hv, Ne.symm hj]
    · by_cases h2 : k = a
      · subst h2
        by_cases hv : v = unlistedByte
        · simp [Memory.write, Memory.read, hv, Ne.symm hj]
        · simp [Memory.write, Memory.read, hv, Ne.symm hj]
      · simp only [Memory.write, Memory.read, h1, h2, if_false]
        rw [ih]

/-- A write keeps the canonical form. -/
theorem Memory.wfFrom_write {lo : Nat} {m : Memory} (h : Memory.wfFrom lo m = true) {k : Nat} (v : Byte) (hk : lo ≤ k) :
    Memory.wfFrom lo (Memory.write m k v) = true := by
  induction m generalizing lo with
  | nil => by_cases hv : v = unlistedByte <;> simp [Memory.write, Memory.wfFrom, hv, hk]
  | cons c m ih =>
    obtain ⟨a, b⟩ := c
    have h0 := h
    simp only [Memory.wfFrom, Bool.and_eq_true, decide_eq_true_eq] at h
    by_cases h1 : k < a
    · by_cases hv : v = unlistedByte
      · simpa [Memory.write, h1, hv] using h0
      · simp only [Memory.write, h1, hv, if_true, if_false, Memory.wfFrom, Bool.and_eq_true, decide_eq_true_eq]
        refine ⟨⟨hk, by simpa using hv⟩, ⟨by omega, h.1.2⟩, h.2⟩
    · by_cases h2 : k = a
      · subst h2
        by_cases hv : v = unlistedByte
        · simp only [Memory.write, hv, if_true, lt_irrefl, if_false]
          exact Memory.wfFrom_mono h.2 (by omega)
        · simp only [Memory.write, hv, if_true, lt_irrefl, if_false, Memory.wfFrom, Bool.and_eq_true, decide_eq_true_eq]
          exact ⟨⟨hk, by simpa using hv⟩, h.2⟩
      · simp only [Memory.write, h1, h2, if_false, Memory.wfFrom, Bool.and_eq_true, decide_eq_true_eq]
        exact ⟨h.1, ih h.2 (by omega)⟩

theorem Memory.wf_write {m : Memory} (h : Memory.wf m = true) (k : Nat) (v : Byte) :
    Memory.wf (Memory.write m k v) = true :=
  Memory.wfFrom_write h v (Nat.zero_le k)

/-- A write inside the buffer lists nothing outside it. -/
theorem Memory.within_write {size : Nat} {m : Memory} (h : Memory.within size m = true) {k : Nat} (v : Byte)
    (hk : k < size) : Memory.within size (Memory.write m k v) = true := by
  simp only [Memory.within, List.all_eq_true, decide_eq_true_eq] at h ⊢
  induction m with
  | nil => by_cases hv : v = unlistedByte <;> simp [Memory.write, hv, hk]
  | cons c m ih =>
    obtain ⟨a, b⟩ := c
    have h1 := h (a, b) (by simp)
    have h2 : ∀ x ∈ m, x.1 < size := fun x hx => h x (by simp [hx])
    simp only [Memory.write]
    intro x hx
    split at hx
    · split at hx
      · exact h x hx
      · rcases List.mem_cons.1 hx with rfl | hx
        · exact hk
        · exact h x hx
    · split at hx
      · split at hx
        · exact h2 x hx
        · rcases List.mem_cons.1 hx with rfl | hx
          · exact hk
          · exact h2 x hx
      · rcases List.mem_cons.1 hx with rfl | hx
        · exact h1
        · exact ih h2 x hx

/-- Several bytes written keep the canonical form. -/
theorem Memory.wf_memWrite {m : Memory} (h : Memory.wf m = true) (a : Nat) (bs : List Byte) :
    Memory.wf (memWrite m a bs) = true := by
  induction bs generalizing m a with
  | nil => exact h
  | cons b bs ih => exact ih (Memory.wf_write h a b) (a + 1)

theorem Memory.within_memWrite {size : Nat} {m : Memory} (h : Memory.within size m = true) (a : Nat) (bs : List Byte)
    (hb : a + bs.length ≤ size) : Memory.within size (memWrite m a bs) = true := by
  induction bs generalizing m a with
  | nil => exact h
  | cons b bs ih =>
    simp only [List.length_cons] at hb
    exact ih (Memory.within_write h b (by omega)) (a + 1) (by omega)

/-- Outside the bytes written every byte reads as before. -/
theorem read_memWrite_other (m : Memory) (a : Nat) (bs : List Byte) {j : Nat} (hj : j < a ∨ a + bs.length ≤ j) :
    Memory.read (memWrite m a bs) j = Memory.read m j := by
  induction bs generalizing m a with
  | nil => rfl
  | cons b bs ih =>
    simp only [List.length_cons] at hj
    rw [memWrite, ih _ _ (by omega), Memory.read_write_other _ _ (by omega)]

/-- Inside them, the bytes written are read back from a canonical buffer. -/
theorem read_memWrite {m : Memory} (h : Memory.wf m = true) (a : Nat) (bs : List Byte) {k : Nat} (hk : k < bs.length) :
    Memory.read (memWrite m a bs) (a + k) = bs.getD k 0 := by
  induction bs generalizing m a k with
  | nil => simp at hk
  | cons b bs ih =>
    cases k with
    | zero => rw [memWrite, read_memWrite_other _ _ _ (by omega)]; simpa using Memory.read_write_same h a b
    | succ k =>
      have := ih (Memory.wf_write h a b) (a + 1) (k := k) (by simpa using hk)
      rw [memWrite, show a + (k + 1) = a + 1 + k by omega, this]
      simp

@[simp] theorem length_memRead (m : Memory) (a n : Nat) : (memRead m a n).length = n := by simp [memRead]

/-- Byte `k` of a block of bytes read. -/
theorem getD_memRead (m : Memory) (a n : Nat) {k : Nat} (hk : k < n) :
    (memRead m a n).getD k 0 = Memory.read m (a + k) := by
  simp [memRead, List.getD, hk]

/-- The bytes written, read back as a block. -/
theorem memRead_memWrite {m : Memory} (h : Memory.wf m = true) (a : Nat) (bs : List Byte) :
    memRead (memWrite m a bs) a bs.length = bs := by
  apply List.ext_getElem
  · simp
  · intro k h1 h2
    have := read_memWrite h a bs h2
    simp [memRead, this, List.getD, h2]

/-- A block read longer by one. -/
theorem memRead_succ (m : Memory) (a n : Nat) : memRead m a (n + 1) = memRead m a n ++ [Memory.read m (a + n)] := by
  simp [memRead, List.range_succ]

/-- A write outside a block leaves it. -/
theorem memRead_write_other (m : Memory) (a n : Nat) {k : Nat} (v : Byte) (hk : k < a ∨ a + n ≤ k) :
    memRead (Memory.write m k v) a n = memRead m a n := by
  apply List.map_congr_left
  intro j hj
  rw [List.mem_range] at hj
  exact Memory.read_write_other _ _ (by omega)

/-- The first bytes of a block. -/
theorem take_memRead (m : Memory) (a : Nat) {j n : Nat} (h : j ≤ n) : (memRead m a n).take j = memRead m a j := by
  simp [memRead, ← List.map_take, List.take_range, Nat.min_eq_left h]

/-- Both buffers of the reset state are canonical. -/
theorem reset_buffers_wf : Memory.wf State.reset.tx = true ∧ Memory.wf State.reset.rx = true := ⟨rfl, rfl⟩

end Sys2Proof.Machine
end

