-- ==== Sys2Proof/Laws/State.lean ====
section
/-! SUPPORT. What each single-register write of Machine/Ops.lean leaves in each field of the state: one lemma per field per
update, so that no proof unfolds a record update. -/

namespace Sys2Proof.Machine

section
variable (s : State) (v : Word16)

@[simp] theorem State.setCrc_crc : (s.setCrc v).crc = v := rfl
@[simp] theorem State.setCrc_cfg : (s.setCrc v).cfg = s.cfg := rfl
@[simp] theorem State.setCrc_status : (s.setCrc v).status = s.status := rfl
@[simp] theorem State.setCrc_rxlen : (s.setCrc v).rxlen = s.rxlen := rfl
@[simp] theorem State.setCrc_regV : (s.setCrc v).regV = s.regV := rfl
@[simp] theorem State.setCrc_regI : (s.setCrc v).regI = s.regI := rfl
@[simp] theorem State.setCrc_regP : (s.setCrc v).regP = s.regP := rfl
@[simp] theorem State.setCrc_regE : (s.setCrc v).regE = s.regE := rfl
@[simp] theorem State.setCrc_regF : (s.setCrc v).regF = s.regF := rfl
@[simp] theorem State.setCrc_regPF : (s.setCrc v).regPF = s.regPF := rfl
@[simp] theorem State.setCrc_regS : (s.setCrc v).regS = s.regS := rfl
@[simp] theorem State.setCrc_regQ : (s.setCrc v).regQ = s.regQ := rfl
@[simp] theorem State.setCrc_tx : (s.setCrc v).tx = s.tx := rfl
@[simp] theorem State.setCrc_rx : (s.setCrc v).rx = s.rx := rfl
@[simp] theorem State.setCrc_rxSize : (s.setCrc v).rxSize = s.rxSize := rfl
@[simp] theorem State.setCrc_pending : (s.setCrc v).pending = s.pending := rfl
@[simp] theorem State.setCrc_observed : (s.setCrc v).observed = s.observed := rfl
@[simp] theorem State.setCrc_line : (s.setCrc v).line = s.line := rfl

end

section
variable (s : State) (v : Word16)

@[simp] theorem State.setCfg_crc : (s.setCfg v).crc = s.crc := rfl
@[simp] theorem State.setCfg_cfg : (s.setCfg v).cfg = v := rfl
@[simp] theorem State.setCfg_status : (s.setCfg v).status = s.status := rfl
@[simp] theorem State.setCfg_rxlen : (s.setCfg v).rxlen = s.rxlen := rfl
@[simp] theorem State.setCfg_regV : (s.setCfg v).regV = s.regV := rfl
@[simp] theorem State.setCfg_regI : (s.setCfg v).regI = s.regI := rfl
@[simp] theorem State.setCfg_regP : (s.setCfg v).regP = s.regP := rfl
@[simp] theorem State.setCfg_regE : (s.setCfg v).regE = s.regE := rfl
@[simp] theorem State.setCfg_regF : (s.setCfg v).regF = s.regF := rfl
@[simp] theorem State.setCfg_regPF : (s.setCfg v).regPF = s.regPF := rfl
@[simp] theorem State.setCfg_regS : (s.setCfg v).regS = s.regS := rfl
@[simp] theorem State.setCfg_regQ : (s.setCfg v).regQ = s.regQ := rfl
@[simp] theorem State.setCfg_tx : (s.setCfg v).tx = s.tx := rfl
@[simp] theorem State.setCfg_rx : (s.setCfg v).rx = s.rx := rfl
@[simp] theorem State.setCfg_rxSize : (s.setCfg v).rxSize = s.rxSize := rfl
@[simp] theorem State.setCfg_pending : (s.setCfg v).pending = s.pending := rfl
@[simp] theorem State.setCfg_observed : (s.setCfg v).observed = s.observed := rfl
@[simp] theorem State.setCfg_line : (s.setCfg v).line = s.line := rfl

end

section
variable (s : State) (v : Word32)

@[simp] theorem State.setStatus_crc : (s.setStatus v).crc = s.crc := rfl
@[simp] theorem State.setStatus_cfg : (s.setStatus v).cfg = s.cfg := rfl
@[simp] theorem State.setStatus_status : (s.setStatus v).status = v := rfl
@[simp] theorem State.setStatus_rxlen : (s.setStatus v).rxlen = s.rxlen := rfl
@[simp] theorem State.setStatus_regV : (s.setStatus v).regV = s.regV := rfl
@[simp] theorem State.setStatus_regI : (s.setStatus v).regI = s.regI := rfl
@[simp] theorem State.setStatus_regP : (s.setStatus v).regP = s.regP := rfl
@[simp] theorem State.setStatus_regE : (s.setStatus v).regE = s.regE := rfl
@[simp] theorem State.setStatus_regF : (s.setStatus v).regF = s.regF := rfl
@[simp] theorem State.setStatus_regPF : (s.setStatus v).regPF = s.regPF := rfl
@[simp] theorem State.setStatus_regS : (s.setStatus v).regS = s.regS := rfl
@[simp] theorem State.setStatus_regQ : (s.setStatus v).regQ = s.regQ := rfl
@[simp] theorem State.setStatus_tx : (s.setStatus v).tx = s.tx := rfl
@[simp] theorem State.setStatus_rx : (s.setStatus v).rx = s.rx := rfl
@[simp] theorem State.setStatus_rxSize : (s.setStatus v).rxSize = s.rxSize := rfl
@[simp] theorem State.setStatus_pending : (s.setStatus v).pending = s.pending := rfl
@[simp] theorem State.setStatus_observed : (s.setStatus v).observed = s.observed := rfl
@[simp] theorem State.setStatus_line : (s.setStatus v).line = s.line := rfl

end

section
variable (s : State) (v : BitVec 8)

@[simp] theorem State.setRxlen_crc : (s.setRxlen v).crc = s.crc := rfl
@[simp] theorem State.setRxlen_cfg : (s.setRxlen v).cfg = s.cfg := rfl
@[simp] theorem State.setRxlen_status : (s.setRxlen v).status = s.status := rfl
@[simp] theorem State.setRxlen_rxlen : (s.setRxlen v).rxlen = v := rfl
@[simp] theorem State.setRxlen_regV : (s.setRxlen v).regV = s.regV := rfl
@[simp] theorem State.setRxlen_regI : (s.setRxlen v).regI = s.regI := rfl
@[simp] theorem State.setRxlen_regP : (s.setRxlen v).regP = s.regP := rfl
@[simp] theorem State.setRxlen_regE : (s.setRxlen v).regE = s.regE := rfl
@[simp] theorem State.setRxlen_regF : (s.setRxlen v).regF = s.regF := rfl
@[simp] theorem State.setRxlen_regPF : (s.setRxlen v).regPF = s.regPF := rfl
@[simp] theorem State.setRxlen_regS : (s.setRxlen v).regS = s.regS := rfl
@[simp] theorem State.setRxlen_regQ : (s.setRxlen v).regQ = s.regQ := rfl
@[simp] theorem State.setRxlen_tx : (s.setRxlen v).tx = s.tx := rfl
@[simp] theorem State.setRxlen_rx : (s.setRxlen v).rx = s.rx := rfl
@[simp] theorem State.setRxlen_rxSize : (s.setRxlen v).rxSize = s.rxSize := rfl
@[simp] theorem State.setRxlen_pending : (s.setRxlen v).pending = s.pending := rfl
@[simp] theorem State.setRxlen_observed : (s.setRxlen v).observed = s.observed := rfl
@[simp] theorem State.setRxlen_line : (s.setRxlen v).line = s.line := rfl

end

section
variable (s : State) (m : Memory)

@[simp] theorem State.setTx_crc : (s.setTx m).crc = s.crc := rfl
@[simp] theorem State.setTx_cfg : (s.setTx m).cfg = s.cfg := rfl
@[simp] theorem State.setTx_status : (s.setTx m).status = s.status := rfl
@[simp] theorem State.setTx_rxlen : (s.setTx m).rxlen = s.rxlen := rfl
@[simp] theorem State.setTx_regV : (s.setTx m).regV = s.regV := rfl
@[simp] theorem State.setTx_regI : (s.setTx m).regI = s.regI := rfl
@[simp] theorem State.setTx_regP : (s.setTx m).regP = s.regP := rfl
@[simp] theorem State.setTx_regE : (s.setTx m).regE = s.regE := rfl
@[simp] theorem State.setTx_regF : (s.setTx m).regF = s.regF := rfl
@[simp] theorem State.setTx_regPF : (s.setTx m).regPF = s.regPF := rfl
@[simp] theorem State.setTx_regS : (s.setTx m).regS = s.regS := rfl
@[simp] theorem State.setTx_regQ : (s.setTx m).regQ = s.regQ := rfl
@[simp] theorem State.setTx_tx : (s.setTx m).tx = m := rfl
@[simp] theorem State.setTx_rx : (s.setTx m).rx = s.rx := rfl
@[simp] theorem State.setTx_rxSize : (s.setTx m).rxSize = s.rxSize := rfl
@[simp] theorem State.setTx_pending : (s.setTx m).pending = s.pending := rfl
@[simp] theorem State.setTx_observed : (s.setTx m).observed = s.observed := rfl
@[simp] theorem State.setTx_line : (s.setTx m).line = s.line := rfl

end

section
variable (s : State) (m : Memory)

@[simp] theorem State.setRx_crc : (s.setRx m).crc = s.crc := rfl
@[simp] theorem State.setRx_cfg : (s.setRx m).cfg = s.cfg := rfl
@[simp] theorem State.setRx_status : (s.setRx m).status = s.status := rfl
@[simp] theorem State.setRx_rxlen : (s.setRx m).rxlen = s.rxlen := rfl
@[simp] theorem State.setRx_regV : (s.setRx m).regV = s.regV := rfl
@[simp] theorem State.setRx_regI : (s.setRx m).regI = s.regI := rfl
@[simp] theorem State.setRx_regP : (s.setRx m).regP = s.regP := rfl
@[simp] theorem State.setRx_regE : (s.setRx m).regE = s.regE := rfl
@[simp] theorem State.setRx_regF : (s.setRx m).regF = s.regF := rfl
@[simp] theorem State.setRx_regPF : (s.setRx m).regPF = s.regPF := rfl
@[simp] theorem State.setRx_regS : (s.setRx m).regS = s.regS := rfl
@[simp] theorem State.setRx_regQ : (s.setRx m).regQ = s.regQ := rfl
@[simp] theorem State.setRx_tx : (s.setRx m).tx = s.tx := rfl
@[simp] theorem State.setRx_rx : (s.setRx m).rx = m := rfl
@[simp] theorem State.setRx_rxSize : (s.setRx m).rxSize = s.rxSize := rfl
@[simp] theorem State.setRx_pending : (s.setRx m).pending = s.pending := rfl
@[simp] theorem State.setRx_observed : (s.setRx m).observed = s.observed := rfl
@[simp] theorem State.setRx_line : (s.setRx m).line = s.line := rfl

end

section
variable (s : State) (v : Word16) (i : Word32)

@[simp] theorem State.setShort_crc : (s.setShort v i).crc = s.crc := rfl
@[simp] theorem State.setShort_cfg : (s.setShort v i).cfg = s.cfg := rfl
@[simp] theorem State.setShort_status : (s.setShort v i).status = s.status := rfl
@[simp] theorem State.setShort_rxlen : (s.setShort v i).rxlen = s.rxlen := rfl
@[simp] theorem State.setShort_regV : (s.setShort v i).regV = v := rfl
@[simp] theorem State.setShort_regI : (s.setShort v i).regI = i := rfl
@[simp] theorem State.setShort_regP : (s.setShort v i).regP = s.regP := rfl
@[simp] theorem State.setShort_regE : (s.setShort v i).regE = s.regE := rfl
@[simp] theorem State.setShort_regF : (s.setShort v i).regF = s.regF := rfl
@[simp] theorem State.setShort_regPF : (s.setShort v i).regPF = s.regPF := rfl
@[simp] theorem State.setShort_regS : (s.setShort v i).regS = s.regS := rfl
@[simp] theorem State.setShort_regQ : (s.setShort v i).regQ = s.regQ := rfl
@[simp] theorem State.setShort_tx : (s.setShort v i).tx = s.tx := rfl
@[simp] theorem State.setShort_rx : (s.setShort v i).rx = s.rx := rfl
@[simp] theorem State.setShort_rxSize : (s.setShort v i).rxSize = s.rxSize := rfl
@[simp] theorem State.setShort_pending : (s.setShort v i).pending = s.pending := rfl
@[simp] theorem State.setShort_observed : (s.setShort v i).observed = s.observed := rfl
@[simp] theorem State.setShort_line : (s.setShort v i).line = s.line := rfl

end

section
variable (s : State) (p e : Word32) (f pf : Word16)

@[simp] theorem State.setLong_crc : (s.setLong p e f pf).crc = s.crc := rfl
@[simp] theorem State.setLong_cfg : (s.setLong p e f pf).cfg = s.cfg := rfl
@[simp] theorem State.setLong_status : (s.setLong p e f pf).status = s.status := rfl
@[simp] theorem State.setLong_rxlen : (s.setLong p e f pf).rxlen = s.rxlen := rfl
@[simp] theorem State.setLong_regV : (s.setLong p e f pf).regV = s.regV := rfl
@[simp] theorem State.setLong_regI : (s.setLong p e f pf).regI = s.regI := rfl
@[simp] theorem State.setLong_regP : (s.setLong p e f pf).regP = p := rfl
@[simp] theorem State.setLong_regE : (s.setLong p e f pf).regE = e := rfl
@[simp] theorem State.setLong_regF : (s.setLong p e f pf).regF = f := rfl
@[simp] theorem State.setLong_regPF : (s.setLong p e f pf).regPF = pf := rfl
@[simp] theorem State.setLong_regS : (s.setLong p e f pf).regS = s.regS := rfl
@[simp] theorem State.setLong_regQ : (s.setLong p e f pf).regQ = s.regQ := rfl
@[simp] theorem State.setLong_tx : (s.setLong p e f pf).tx = s.tx := rfl
@[simp] theorem State.setLong_rx : (s.setLong p e f pf).rx = s.rx := rfl
@[simp] theorem State.setLong_rxSize : (s.setLong p e f pf).rxSize = s.rxSize := rfl
@[simp] theorem State.setLong_pending : (s.setLong p e f pf).pending = s.pending := rfl
@[simp] theorem State.setLong_observed : (s.setLong p e f pf).observed = s.observed := rfl
@[simp] theorem State.setLong_line : (s.setLong p e f pf).line = s.line := rfl

end

section
variable (s : State) (sv qv : Word48)

@[simp] theorem State.setDerived_crc : (s.setDerived sv qv).crc = s.crc := rfl
@[simp] theorem State.setDerived_cfg : (s.setDerived sv qv).cfg = s.cfg := rfl
@[simp] theorem State.setDerived_status : (s.setDerived sv qv).status = s.status := rfl
@[simp] theorem State.setDerived_rxlen : (s.setDerived sv qv).rxlen = s.rxlen := rfl
@[simp] theorem State.setDerived_regV : (s.setDerived sv qv).regV = s.regV := rfl
@[simp] theorem State.setDerived_regI : (s.setDerived sv qv).regI = s.regI := rfl
@[simp] theorem State.setDerived_regP : (s.setDerived sv qv).regP = s.regP := rfl
@[simp] theorem State.setDerived_regE : (s.setDerived sv qv).regE = s.regE := rfl
@[simp] theorem State.setDerived_regF : (s.setDerived sv qv).regF = s.regF := rfl
@[simp] theorem State.setDerived_regPF : (s.setDerived sv qv).regPF = s.regPF := rfl
@[simp] theorem State.setDerived_regS : (s.setDerived sv qv).regS = sv := rfl
@[simp] theorem State.setDerived_regQ : (s.setDerived sv qv).regQ = qv := rfl
@[simp] theorem State.setDerived_tx : (s.setDerived sv qv).tx = s.tx := rfl
@[simp] theorem State.setDerived_rx : (s.setDerived sv qv).rx = s.rx := rfl
@[simp] theorem State.setDerived_rxSize : (s.setDerived sv qv).rxSize = s.rxSize := rfl
@[simp] theorem State.setDerived_pending : (s.setDerived sv qv).pending = s.pending := rfl
@[simp] theorem State.setDerived_observed : (s.setDerived sv qv).observed = s.observed := rfl
@[simp] theorem State.setDerived_line : (s.setDerived sv qv).line = s.line := rfl

end

section
variable (s : State) (l : List HostAction)

@[simp] theorem State.setPending_crc : (s.setPending l).crc = s.crc := rfl
@[simp] theorem State.setPending_cfg : (s.setPending l).cfg = s.cfg := rfl
@[simp] theorem State.setPending_status : (s.setPending l).status = s.status := rfl
@[simp] theorem State.setPending_rxlen : (s.setPending l).rxlen = s.rxlen := rfl
@[simp] theorem State.setPending_regV : (s.setPending l).regV = s.regV := rfl
@[simp] theorem State.setPending_regI : (s.setPending l).regI = s.regI := rfl
@[simp] theorem State.setPending_regP : (s.setPending l).regP = s.regP := rfl
@[simp] theorem State.setPending_regE : (s.setPending l).regE = s.regE := rfl
@[simp] theorem State.setPending_regF : (s.setPending l).regF = s.regF := rfl
@[simp] theorem State.setPending_regPF : (s.setPending l).regPF = s.regPF := rfl
@[simp] theorem State.setPending_regS : (s.setPending l).regS = s.regS := rfl
@[simp] theorem State.setPending_regQ : (s.setPending l).regQ = s.regQ := rfl
@[simp] theorem State.setPending_tx : (s.setPending l).tx = s.tx := rfl
@[simp] theorem State.setPending_rx : (s.setPending l).rx = s.rx := rfl
@[simp] theorem State.setPending_rxSize : (s.setPending l).rxSize = s.rxSize := rfl
@[simp] theorem State.setPending_pending : (s.setPending l).pending = l := rfl
@[simp] theorem State.setPending_observed : (s.setPending l).observed = s.observed := rfl
@[simp] theorem State.setPending_line : (s.setPending l).line = s.line := rfl

end

section
variable (s : State) (v : Option Word48)

@[simp] theorem State.setObserved_crc : (s.setObserved v).crc = s.crc := rfl
@[simp] theorem State.setObserved_cfg : (s.setObserved v).cfg = s.cfg := rfl
@[simp] theorem State.setObserved_status : (s.setObserved v).status = s.status := rfl
@[simp] theorem State.setObserved_rxlen : (s.setObserved v).rxlen = s.rxlen := rfl
@[simp] theorem State.setObserved_regV : (s.setObserved v).regV = s.regV := rfl
@[simp] theorem State.setObserved_regI : (s.setObserved v).regI = s.regI := rfl
@[simp] theorem State.setObserved_regP : (s.setObserved v).regP = s.regP := rfl
@[simp] theorem State.setObserved_regE : (s.setObserved v).regE = s.regE := rfl
@[simp] theorem State.setObserved_regF : (s.setObserved v).regF = s.regF := rfl
@[simp] theorem State.setObserved_regPF : (s.setObserved v).regPF = s.regPF := rfl
@[simp] theorem State.setObserved_regS : (s.setObserved v).regS = s.regS := rfl
@[simp] theorem State.setObserved_regQ : (s.setObserved v).regQ = s.regQ := rfl
@[simp] theorem State.setObserved_tx : (s.setObserved v).tx = s.tx := rfl
@[simp] theorem State.setObserved_rx : (s.setObserved v).rx = s.rx := rfl
@[simp] theorem State.setObserved_rxSize : (s.setObserved v).rxSize = s.rxSize := rfl
@[simp] theorem State.setObserved_pending : (s.setObserved v).pending = s.pending := rfl
@[simp] theorem State.setObserved_observed : (s.setObserved v).observed = v := rfl
@[simp] theorem State.setObserved_line : (s.setObserved v).line = s.line := rfl

end

section
variable (s : State) (l : List Byte)

@[simp] theorem State.setLine_crc : (s.setLine l).crc = s.crc := rfl
@[simp] theorem State.setLine_cfg : (s.setLine l).cfg = s.cfg := rfl
@[simp] theorem State.setLine_status : (s.setLine l).status = s.status := rfl
@[simp] theorem State.setLine_rxlen : (s.setLine l).rxlen = s.rxlen := rfl
@[simp] theorem State.setLine_regV : (s.setLine l).regV = s.regV := rfl
@[simp] theorem State.setLine_regI : (s.setLine l).regI = s.regI := rfl
@[simp] theorem State.setLine_regP : (s.setLine l).regP = s.regP := rfl
@[simp] theorem State.setLine_regE : (s.setLine l).regE = s.regE := rfl
@[simp] theorem State.setLine_regF : (s.setLine l).regF = s.regF := rfl
@[simp] theorem State.setLine_regPF : (s.setLine l).regPF = s.regPF := rfl
@[simp] theorem State.setLine_regS : (s.setLine l).regS = s.regS := rfl
@[simp] theorem State.setLine_regQ : (s.setLine l).regQ = s.regQ := rfl
@[simp] theorem State.setLine_tx : (s.setLine l).tx = s.tx := rfl
@[simp] theorem State.setLine_rx : (s.setLine l).rx = s.rx := rfl
@[simp] theorem State.setLine_rxSize : (s.setLine l).rxSize = s.rxSize := rfl
@[simp] theorem State.setLine_pending : (s.setLine l).pending = s.pending := rfl
@[simp] theorem State.setLine_observed : (s.setLine l).observed = s.observed := rfl
@[simp] theorem State.setLine_line : (s.setLine l).line = l := rfl

end

section
variable (s : State)

/-- `RXMAX` depends on the configuration alone. -/
theorem State.rxMax_eq (t : State) (h : t.rxSize = s.rxSize) : t.rxMax = s.rxMax := by
  simp [State.rxMax, h]

theorem State.rxMax_ge : 25 ≤ s.rxMax := by simp [State.rxMax, Config.RxSize.bytes]

theorem State.rxMax_le : s.rxMax ≤ 255 := by
  have := s.rxSize.isLt
  simp only [State.rxMax, Config.RxSize.bytes]
  omega

end

end Sys2Proof.Machine
end

