-- ==== Sys2Proof/Laws/Ops.lean ====
section
/-! SUPPORT. What each shared operation can do, said once. -/

namespace Sys2Proof.Machine

/-- A block that accepts commands takes the effect. -/
theorem accept_of_ready {s : State} (h : s.halted = false) (f : State → State) : accept s f = .next (f s) := by
  simp [accept, h]

/-- A halted block ignores the command (spec/60_exceptions.md R186). -/
theorem accept_of_halted {s : State} (h : s.halted = true) (f : State → State) : accept s f = .next s := by
  simp [accept, h]

/-- If a command ends, the block was halted and nothing changed, or it accepts commands and the effect was taken. -/
theorem accept_cases {s t : State} {f : State → State} (h : accept s f = .next t) :
    (s.halted = true ∧ t = s) ∨ (s.halted = false ∧ t = f s) := by
  cases hs : s.halted
  · rw [accept_of_ready hs] at h
    exact .inr ⟨rfl, (Host.Outcome.next.inj h).symm⟩
  · rw [accept_of_halted hs] at h
    exact .inl ⟨rfl, (Host.Outcome.next.inj h).symm⟩

/-- A command always ends in a next state. -/
theorem accept_next (s : State) (f : State → State) : ∃ t, accept s f = .next t := by
  cases hs : s.halted
  · exact ⟨_, accept_of_ready hs f⟩
  · exact ⟨_, accept_of_halted hs f⟩

/-- An observation that ends read a location that exists and holds a value, and changed nothing but what was observed. -/
theorem observe_cases {l : Loc} {s t : State} (h : observe l s = .next t) :
    l.exists s = true ∧ ∃ v, l.value s = some v ∧ t = s.setObserved (some v) := by
  unfold observe at h
  split at h
  · rename_i he
    split at h
    · rename_i v hv
      exact ⟨he, v, hv, (Host.Outcome.next.inj h).symm⟩
    · cases h
  · cases h

/-- The cause DECODE reports is the first that applies (spec/60_exceptions.md R183). -/
theorem earlyCause_cases (n : Word16) (s : State) :
    (n ≠ 3 ∧ n ≠ 10 ∧ earlyCause n s = some .badCount) ∨
      ((n = 3 ∨ n = 10) ∧ stRxOvf s.status = true ∧ earlyCause n s = some .overrun) ∨
      ((n = 3 ∨ n = 10) ∧ stRxOvf s.status = false ∧ s.rxlen.toNat < minLen n ∧ earlyCause n s = some .short) ∨
      ((n = 3 ∨ n = 10) ∧ stRxOvf s.status = false ∧ minLen n ≤ s.rxlen.toNat ∧ earlyCause n s = none) := by
  by_cases hn : n = 3 ∨ n = 10
  · have hc : countAdmitted n = true := by rcases hn with rfl | rfl <;> rfl
    cases ho : stRxOvf s.status
    · by_cases hl : s.rxlen.toNat < minLen n
      · exact .inr (.inr (.inl ⟨hn, rfl, hl, by simp [earlyCause, hc, ho, hl]⟩))
      · exact .inr (.inr (.inr ⟨hn, rfl, by omega, by simp [earlyCause, hc, ho, hl]⟩))
    · exact .inr (.inl ⟨hn, rfl, by simp [earlyCause, hc, ho]⟩)
  · obtain ⟨h3, h10⟩ := not_or.1 hn
    have hc : countAdmitted n = false := by
      simp only [countAdmitted, Bool.or_eq_false_iff, beq_eq_false_iff_ne]
      exact ⟨h3, h10⟩
    exact .inl ⟨h3, h10, by simp [earlyCause, hc]⟩

/-- DECODE gives no data for the cause found, or a Reading when there is none (spec/42_decode.md R138). -/
theorem decodeRx_cases (n : Word16) (s : State) :
    (∃ c, decodeCause n s = some c ∧ decodeRx n s = giveNoData c (noteChecksum n s)) ∨
      (decodeCause n s = none ∧ decodeRx n s = giveReading n (noteChecksum n s)) := by
  unfold decodeRx
  cases h : decodeCause n s with
  | none => exact .inr ⟨rfl, rfl⟩
  | some c => exact .inl ⟨c, rfl, rfl⟩

/-- The checksum's note changes `CRC` alone. -/
theorem noteChecksum_eq (n : Word16) (s : State) : noteChecksum n s = s.setCrc (noteChecksum n s).crc := by
  unfold noteChecksum
  split <;> rfl

/-- A ten-register Reading. -/
theorem giveReading_ten (s : State) :
    giveReading 10 s = ((s.setShort (fieldV (rxBytes s)) (fieldI (rxBytes s))).setLong (fieldP (rxBytes s))
      (fieldE (rxBytes s)) (fieldF (rxBytes s)) (fieldPF (rxBytes s))).setStatus
        (putDecode s.status outcomeReading 0 validTen) := by
  simp only [giveReading, if_true]

/-- A Reading of voltage and current only (R145). -/
theorem giveReading_three {n : Word16} (h : n ≠ 10) (s : State) :
    giveReading n s = (s.setShort (fieldV (rxBytes s)) (fieldI (rxBytes s))).setStatus
      (putDecode s.status outcomeReading 0 validThree) := by
  simp only [giveReading, h, if_false]

/-- RXPUSH appends below `RXMAX` and records an overflow at it (R137). -/
theorem pushRx_cases (b : Byte) (s : State) :
    (s.rxlen.toNat < s.rxMax ∧
        pushRx b s = (s.setRx (Memory.write s.rx s.rxlen.toNat b)).setRxlen (s.rxlen + 1)) ∨
      (s.rxMax ≤ s.rxlen.toNat ∧ pushRx b s = s.setStatus (putBit s.status 6 true)) := by
  unfold pushRx
  by_cases h : s.rxlen.toNat < s.rxMax
  · exact .inl ⟨h, by rw [if_pos h]⟩
  · exact .inr ⟨by omega, by rw [if_neg h]⟩

/-- Below `RXMAX` the length does not wrap. -/
theorem toNat_rxlen_succ {s : State} (h : s.rxlen.toNat < s.rxMax) : (s.rxlen + 1).toNat = s.rxlen.toNat + 1 := by
  have := State.rxMax_le s
  rw [BitVec.toNat_add]
  simp
  omega

end Sys2Proof.Machine
end

