-- ==== Sys2Proof/Laws/Exec.lean ====
section
/-! SUPPORT. The effect of each instruction on a block that accepts commands, and on a halted one, in terms of the shared
operations. -/

namespace Sys2Proof.Machine

section
variable {s : State} (h : s.halted = false)
include h

theorem exec_crcinit : exec .crcinit s = .next (s.setCrc crcInit) := by
  simp [exec, execCrcinit, accept_of_ready h]

theorem exec_crcbyte (b : Byte) : exec (.crcbyte b) s = .next (s.setCrc (crcByte s.crc b)) := by
  simp [exec, execCrcbyte, accept_of_ready h]

theorem exec_setaddr (a : Byte) : exec (.setaddr a) s = .next (s.setCfg (putField s.cfg 0 a)) := by
  simp [exec, execSetaddr, accept_of_ready h]

theorem exec_setcrcen (e : BitVec 1) : exec (.setcrcen e) s = .next (s.setCfg (putField s.cfg 8 e)) := by
  simp [exec, execSetcrcen, accept_of_ready h]

theorem exec_buildreq {start count : Word16} (hc : count ≠ 0) :
    exec (.buildreq start count) s = .next (buildFrame start count s) := by
  rw [exec, execBuildreq, accept_of_ready h, if_neg hc]

theorem exec_buildreq_zero (start : Word16) : exec (.buildreq start 0) s = .next (refuse .badCount s) := by
  rw [exec, execBuildreq, accept_of_ready h, if_pos rfl]

theorem exec_rxclr : exec .rxclr s = .next (clearRx s) := by
  simp [exec, execRxclr, accept_of_ready h]

theorem exec_rxpush (b : Byte) : exec (.rxpush b) s = .next (pushRx b s) := by
  simp [exec, execRxpush, accept_of_ready h]

theorem exec_decode (n : Word16) : exec (.decode n) s = .next (decodeRx n s) := by
  simp [exec, execDecode, accept_of_ready h]

theorem exec_derive (hv : inputsValid s = true) : exec .derive s = .next (derivePower s) := by
  simp [exec, execDerive, accept_of_ready h, hv]

theorem exec_derive_noInput (hv : inputsValid s = false) : exec .derive s = .next (refuse .noInput s) := by
  simp [exec, execDerive, accept_of_ready h, hv]

theorem exec_responseN10 (r : ResponseN10) :
    exec (.responseN10 r) s = .next (receive 10 (responseN10Bytes r) s) := by
  simp [exec, execResponseN10, accept_of_ready h]

theorem exec_responseN3 (r : ResponseN3) : exec (.responseN3 r) s = .next (receive 3 (responseN3Bytes r) s) := by
  simp [exec, execResponseN3, accept_of_ready h]

end

/-- The frame on the line, halted or not (log 8). -/
theorem exec_requestFrame (f : RequestFrame) (s : State) :
    exec (.requestFrame f) s = .next (s.setLine (requestFrameBytes f)) := rfl

/-- A halted block ignores every row but the request frame, which is no command of its (R186). -/
theorem exec_of_halted {s : State} (h : s.halted = true) (i : Instr) (hi : ∀ f, i ≠ .requestFrame f) :
    exec i s = .next s := by
  cases i with
  | requestFrame f => exact absurd rfl (hi f)
  | crcinit => simp [exec, execCrcinit, accept_of_halted h]
  | crcbyte b => simp [exec, execCrcbyte, accept_of_halted h]
  | setaddr a => simp [exec, execSetaddr, accept_of_halted h]
  | setcrcen e => simp [exec, execSetcrcen, accept_of_halted h]
  | buildreq x y => simp [exec, execBuildreq, accept_of_halted h]
  | rxclr => simp [exec, execRxclr, accept_of_halted h]
  | rxpush b => simp [exec, execRxpush, accept_of_halted h]
  | decode n => simp [exec, execDecode, accept_of_halted h]
  | derive => simp [exec, execDerive, accept_of_halted h]
  | responseN10 r => simp [exec, execResponseN10, accept_of_halted h]
  | responseN3 r => simp [exec, execResponseN3, accept_of_halted h]

/-- A command word at the head of the host's list is what the step takes. -/
theorem step_of_pending {s : State} {a : HostAction} {rest : List HostAction} (h : s.pending = a :: rest) :
    step s = act a (s.setPending rest) := by
  simp [step, h]

/-- Whether a location exists does not depend on what the host has yet to do. -/
@[simp] theorem Loc.exists_setPending (l : Loc) (s : State) (p : List HostAction) :
    l.exists (s.setPending p) = l.exists s := by
  cases l <;> rfl

/-- Nor does the value it holds. -/
@[simp] theorem Loc.value_setPending (l : Loc) (s : State) (p : List HostAction) :
    l.value (s.setPending p) = l.value s := by
  cases l with
  | reg r => cases r <;> rfl
  | tx k => rfl
  | rx k => rfl

/-- Bytes of no layout are loaded, unless the block is halted (log 10). -/
theorem act_stray {bytes : List Byte} {e : DecodeError} (h : decodeFrame bytes = .error e) (s : State) :
    act (.wire bytes) s = accept s (loadRx bytes) := by
  simp [act, h, strayBytes]

/-- Everything a step that answers a next state can have done: nothing, an instruction, the refusal of a word that is none,
the loading of bytes of no layout, an observation, a reset. -/
theorem step_cases {s t : State} (h : step s = .next t) :
    (s.pending = [] ∧ t = s) ∨
      ∃ a rest, s.pending = a :: rest ∧
        ((∃ i, exec i (s.setPending rest) = .next t) ∨
          (∃ w, a = .command w ∧ accept (s.setPending rest) (refuse .illCmd) = .next t) ∨
          (∃ bytes, a = .wire bytes ∧ accept (s.setPending rest) (loadRx bytes) = .next t) ∨
          (∃ l v, a = .observe l ∧ l.exists s = true ∧ l.value s = some v ∧
            t = (s.setPending rest).setObserved (some v)) ∨
          (a = .reset ∧ t = resetBlock (s.setPending rest))) := by
  cases hp : s.pending with
  | nil =>
    rw [step, hp] at h
    exact .inl ⟨rfl, (Host.Outcome.next.inj h).symm⟩
  | cons a rest =>
    rw [step_of_pending hp] at h
    refine .inr ⟨a, rest, rfl, ?_⟩
    cases a with
    | command w =>
      rw [act] at h
      split at h
      · exact .inl ⟨_, h⟩
      · exact .inr (.inl ⟨w, rfl, h⟩)
    | wire bytes =>
      cases hd : decodeFrame bytes with
      | ok i => exact .inl ⟨i, by simpa [act, hd] using h⟩
      | error e => exact .inr (.inr (.inl ⟨bytes, rfl, (act_stray hd _).symm.trans h⟩))
    | observe l =>
      obtain ⟨he, v, hv, rfl⟩ := observe_cases h
      exact .inr (.inr (.inr (.inl ⟨l, v, rfl, by simpa using he, by simpa using hv, rfl⟩)))
    | reset => exact .inr (.inr (.inr (.inr ⟨rfl, (Host.Outcome.next.inj h).symm⟩)))

end Sys2Proof.Machine
end

