-- ==== Sys2Proof/Laws/PerInstr.lean ====
section
/-! SUPPORT. Statements per constructor of Instr. EncodeLength: the length of an instruction's encoding, by its row
(spec/30_encoding.md R70, R72, R76). -/

namespace Sys2Proof.Laws.EncodeLength

/-- The bytes a row of the opcode table occupies: 5 for a command word (R76), 8 for a request (R70), 25 and 11 for the two
responses (R72). -/
def rowBytes : Instr → Nat
  | .crcinit => 5
  | .crcbyte _ => 5
  | .setaddr _ => 5
  | .setcrcen _ => 5
  | .buildreq _ _ => 5
  | .rxclr => 5
  | .rxpush _ => 5
  | .decode _ => 5
  | .derive => 5
  | .requestFrame _ => 8
  | .responseN10 _ => 25
  | .responseN3 _ => 11

/-- The encoding has its row's length. -/
def Statement (i : Instr) : Prop := (encode i).length = rowBytes i

theorem crcinit : Statement .crcinit := rfl

theorem crcbyte (b : Byte) : Statement (.crcbyte b) := rfl

theorem setaddr (a : Byte) : Statement (.setaddr a) := rfl

theorem setcrcen (e : BitVec 1) : Statement (.setcrcen e) := rfl

theorem buildreq (start count : Word16) : Statement (.buildreq start count) := rfl

theorem rxclr : Statement .rxclr := rfl

theorem rxpush (b : Byte) : Statement (.rxpush b) := rfl

theorem decode (n : Word16) : Statement (.decode n) := rfl

theorem derive : Statement .derive := rfl

theorem requestFrame (f : RequestFrame) : Statement (.requestFrame f) := rfl

theorem responseN10 (r : ResponseN10) : Statement (.responseN10 r) := rfl

theorem responseN3 (r : ResponseN3) : Statement (.responseN3 r) := rfl

end Sys2Proof.Laws.EncodeLength
end

