-- ==== Sys2Proof/Laws/Power.lean ====
section
/-! SUPPORT. The square root of Machine/Power.lean is the floor (spec/00_scope.md R8), and DERIVE's two results fit their
registers (spec/70_reset_and_hazards.md R221). -/

namespace Sys2Proof.Machine

/-- Each digit keeps what is found below the root and within what is left to find. -/
theorem isqrtDigits_spec (k d r : Nat) (hr : r * r ≤ d) (hd : d < (r + 2 ^ k) * (r + 2 ^ k)) :
    isqrtDigits k d r * isqrtDigits k d r ≤ d ∧ d < (isqrtDigits k d r + 1) * (isqrtDigits k d r + 1) := by
  induction k generalizing r with
  | zero => exact ⟨hr, by simpa [isqrtDigits] using hd⟩
  | succ k ih =>
    rw [isqrtDigits]
    by_cases h : (r + 2 ^ k) * (r + 2 ^ k) ≤ d
    · rw [if_pos h]
      refine ih _ h ?_
      rwa [Nat.add_assoc, ← Nat.two_mul, ← Nat.pow_succ']
    · rw [if_neg h]
      exact ih _ hr (Nat.lt_of_not_le h)

/-- `isqrt d` is the largest integer r with r × r ≤ d (R8). -/
theorem isqrt_spec (d : Nat) : isqrt d * isqrt d ≤ d ∧ d < (isqrt d + 1) * (isqrt d + 1) := by
  refine isqrtDigits_spec _ d 0 (Nat.zero_le d) ?_
  rw [Nat.zero_add, ← Nat.pow_add]
  exact lt_of_lt_of_le Nat.lt_log2_self (Nat.pow_le_pow_right (by omega) (by omega))

/-- The root of something at most a square is at most its side. -/
theorem isqrt_le_of_le_mul_self {d r : Nat} (h : d ≤ r * r) : isqrt d ≤ r := by
  have := (isqrt_spec d).1
  by_contra hlt
  have : r + 1 ≤ isqrt d := by omega
  have := Nat.mul_le_mul this this
  nlinarith

@[simp] theorem isqrt_zero : isqrt 0 = 0 := by decide

/-- The root of a square. -/
theorem isqrt_mul_self (r : Nat) : isqrt (r * r) = r := by
  refine Nat.le_antisymm (isqrt_le_of_le_mul_self le_rfl) ?_
  have := (isqrt_spec (r * r)).2
  by_contra hlt
  have : isqrt (r * r) + 1 ≤ r := by omega
  have := Nat.mul_le_mul this this
  omega

/-- `s` < 2^48 (R221). -/
theorem apparent_lt (s : State) : apparent s < 2 ^ 48 := by
  have h1 : s.regV.toNat ≤ 2 ^ 16 - 1 := by have := s.regV.isLt; omega
  have h2 : s.regI.toNat ≤ 2 ^ 32 - 1 := by have := s.regI.isLt; omega
  exact lt_of_le_of_lt (Nat.mul_le_mul h1 h2) (by norm_num)

/-- The radicand is at most the square of the apparent power. -/
theorem max_radicand_le (s : State) : (max (radicand s) 0).toNat ≤ apparent s * apparent s := by
  have h : 0 ≤ 1000000 * ((s.regP.toNat : Int) * s.regP.toNat) := by positivity
  have h2 : ((apparent s * apparent s : Nat) : Int) = (apparent s : Int) * apparent s := by push_cast; rfl
  have h3 : 0 ≤ (apparent s : Int) * apparent s := by positivity
  have : max (radicand s) 0 ≤ ((apparent s * apparent s : Nat) : Int) := by
    rw [h2]
    exact max_le (by unfold radicand; omega) h3
  omega

/-- `q` ≤ `s` (R169, R221). -/
theorem reactive_le_apparent (s : State) : reactive s ≤ apparent s := isqrt_le_of_le_mul_self (max_radicand_le s)

/-- The root brackets the clamped radicand, over the integers (spec/43_scale_derive.md R170). -/
theorem reactive_spec (s : State) :
    (reactive s : Int) * reactive s ≤ max (radicand s) 0 ∧
      max (radicand s) 0 < ((reactive s : Int) + 1) * (reactive s + 1) := by
  have h := isqrt_spec (max (radicand s) 0).toNat
  have h0 : 0 ≤ max (radicand s) 0 := le_max_right _ _
  have e : ((max (radicand s) 0).toNat : Int) = max (radicand s) 0 := Int.toNat_of_nonneg h0
  constructor
  · rw [← e]; exact_mod_cast h.1
  · rw [← e]; exact_mod_cast h.2

/-- Narrowing `s` to 48 bits loses nothing. -/
@[simp] theorem toNat_apparent (s : State) : (BitVec.ofNat 48 (apparent s)).toNat = apparent s := by
  rw [BitVec.toNat_ofNat, Nat.mod_eq_of_lt (apparent_lt s)]

/-- Narrowing `q` to 48 bits loses nothing. -/
@[simp] theorem toNat_reactive (s : State) : (BitVec.ofNat 48 (reactive s)).toNat = reactive s := by
  rw [BitVec.toNat_ofNat, Nat.mod_eq_of_lt (lt_of_le_of_lt (reactive_le_apparent s) (apparent_lt s))]

end Sys2Proof.Machine
end

