-- ==== Sys2Proof/Tests/Slice0.lean ====
section
/-! SUPPORT. Tests: words and vectors of spec/95_test_vectors.md and of the encoding tables, one step each, and for every
statement with hypotheses a state and operands that meet them. No expected value comes from the model. -/

open Sys2Proof Sys2Proof.Machine Sys2Proof.Statements

namespace Sys2Proof.Tests

/-! Helpers. -/

/-- The state an outcome continues in, if it does. -/
def after (o : Host.Outcome State Fault Refusal) : Option State :=
  match o with
  | .next t => some t
  | .fault _ => none
  | .refused _ => none

/-- The fault of an outcome. -/
def faultOf (o : Host.Outcome State Fault Refusal) : Option Fault :=
  match o with
  | .next _ => none
  | .fault r => some r
  | .refused _ => none

/-- The reset state with a word on the command port. -/
def port (w : CommandWord) : State := { State.reset with pending := [.command w] }

/-- The reset state with these bytes received, this `CFG` and this `STATUS`. -/
def rxHolds (bytes : List Byte) (cfg : Word16) (status : Word32) : State :=
  { State.reset with cfg := cfg, status := status, rx := memWrite [] 0 bytes, rxlen := BitVec.ofNat 8 bytes.length }

/-- The reset state with voltage, current and power decoded (six valid bits, outcome READING). -/
def reading (v : Word16) (i p : Word32) : State :=
  { State.reset with status := 0x00003F01, regV := v, regI := i, regP := p }

/-- The reset state with these bytes arriving on the wire and this `STATUS`. -/
def wireHolds (bytes : List Byte) (status : Word32) : State :=
  { State.reset with status := status, pending := [.wire bytes] }

/-- A Modbus exception response, five bytes (R73). -/
def exceptionResponse : List Byte := [0x01, 0x84, 0x02, 0xC2, 0xC1]

/-- Response A, V20. -/
def responseA : List Byte := [0x01, 0x04, 0x14, 0x08, 0x98, 0x05, 0xDC, 0x00, 0x00, 0x0B, 0xB8, 0x00, 0x00, 0x30, 0x39, 0x00, 0x00, 0x01, 0xF4, 0x00, 0x5B, 0x00, 0x00, 0xA7, 0x48]

/-- Response B, V21: every half of every 32-bit field different. -/
def responseB : List Byte := [0x01, 0x04, 0x14, 0x08, 0xFD, 0x23, 0x45, 0x00, 0x01, 0x86, 0xA0, 0x00, 0x01, 0xFF, 0xFF, 0x00, 0x02, 0x01, 0xF3, 0x00, 0x64, 0x00, 0x00, 0x25, 0xBC]

/-- The three-register response of V21. -/
def responseT : List Byte := [0x01, 0x04, 0x06, 0x08, 0x98, 0x05, 0xDC, 0x00, 0x00, 0x81, 0x31]

/-! Decoding: words written out from R77, R70 and R72, one row each, and the illegal words of V45. -/

theorem test_decode_crc_family :
    decodeTableWord 40 0b0000000100000000000000000000000000000000 = some .crcinit ∧
      decodeTableWord 40 0b0000001000000000000000000000000011000101 = some (.crcbyte 0xC5) := by decide

theorem test_decode_request_family :
    decodeTableWord 40 0b0001000000000000000000000000000011111000 = some (.setaddr 0xF8) ∧
      decodeTableWord 40 0b0001000100000000000000000000000000000001 = some (.setcrcen 1) ∧
      decodeTableWord 40 0b0001001000010010001101000101011001111000 = some (.buildreq 0x1234 0x5678) := by decide

theorem test_decode_response_family :
    decodeTableWord 40 0b0010000000000000000000000000000000000000 = some .rxclr ∧
      decodeTableWord 40 0b0010000100000000000000000000000010011000 = some (.rxpush 0x98) ∧
      decodeTableWord 40 0b0010001000000000000000000000000000001010 = some (.decode 10) := by decide

theorem test_decode_derive :
    decodeTableWord 40 0b0011000000000000000000000000000000000000 = some .derive := by decide

/-- The frame of V14, whose count and trailer differ in their halves. -/
theorem test_decode_request_frame :
    decodeTableWord 64 0x01040000000131CA = some (.requestFrame ⟨0x01, 0x0000, 0x0001, 0x31, 0xCA⟩) := by decide

theorem test_decode_response_n10 :
    decodeBytes responseB = .ok (.responseN10 ⟨0x010414, 0x08FD, 0x2345, 0x0001, 0x86A0, 0x0001, 0xFFFF, 0x0002, 0x01F3,
      0x0064, 0x0000, 0x25, 0xBC⟩) := by rfl

theorem test_decode_response_n3 :
    decodeTableWord 88 0x010406089805DC00008131 =
      some (.responseN3 ⟨0x010406, 0x0898, 0x05DC, 0x0000, 0x81, 0x31⟩) := by decide

/-- V45. -/
theorem test_decode_illegal_words :
    decodeCommand 0x0000000000 = .error (.unknownOp 0x00) ∧ decodeCommand 0xFFFFFFFFFF = .error (.unknownOp 0xFF) ∧
      decodeCommand 0x0100000001 = .error (.reservedArg 0x01) ∧
      decodeCommand 0x0200000100 = .error (.reservedArg 0x02) ∧
      decodeCommand 0x1100000002 = .error (.reservedArg 0x11) ∧
      decodeCommand 0x220001000A = .error (.reservedArg 0x22) ∧
      decodeCommand 0x3080000000 = .error (.reservedArg 0x30) ∧ decodeCommand 0x1300000000 = .error (.unknownOp 0x13) := by
  refine ⟨rfl, rfl, rfl, rfl, rfl, rfl, rfl, rfl⟩

/-- V45, "Legal by contrast". -/
theorem test_decode_legal_extremes :
    decodeTableWord 40 0x12FFFFFFFF = some (.buildreq 0xFFFF 0xFFFF) ∧
      decodeTableWord 40 0x220000FFFF = some (.decode 0xFFFF) ∧
      decodeTableWord 40 0x02000000FF = some (.crcbyte 0xFF) ∧
      decodeTableWord 40 0x1100000000 = some (.setcrcen 0) := by decide

/-- Bytes that are no layout, and a request-length frame with another function code (R73). -/
theorem test_decode_stray_frames :
    decodeBytes [0x01, 0x84, 0x02, 0xC2] = .error (.noLayout 4) ∧
      decodeBytes [0x01, 0x03, 0x00, 0x00, 0x00, 0x0A, 0x70, 0x0D] = .error (.functionCode 0x03) := by
  refine ⟨rfl, rfl⟩

/-- The encoder writes the words of the tables. -/
theorem test_encode_words :
    encode .crcinit = [0x01, 0x00, 0x00, 0x00, 0x00] ∧
      encode (.buildreq 0x1234 0x5678) = [0x12, 0x12, 0x34, 0x56, 0x78] ∧
      encode (.decode 10) = [0x22, 0x00, 0x00, 0x00, 0x0A] := by decide

/-! WellFormed: an ill-formed term for each check, which the check refuses, and a well-formed one. -/

/-- "count ≥ 1" (R120): count 0 under its own right trailer is refused. -/
theorem test_wellFormed_count :
    (RequestFrame.countOk ⟨0x01, 0x0000, 0x0000, 0xF0, 0x0A⟩) = false ∧
      (Instr.requestFrame ⟨0x01, 0x0000, 0x0000, 0xF0, 0x0A⟩).wellFormed = false := by decide +kernel

/-- The trailer (R70): a wrong low byte is refused. -/
theorem test_wellFormed_crcLo :
    (Instr.requestFrame ⟨0x01, 0x0000, 0x000A, 0x71, 0x0D⟩).wellFormed = false := by decide +kernel

/-- The trailer (R70): a wrong high byte, and swapped halves, are refused. -/
theorem test_wellFormed_crcHi :
    (Instr.requestFrame ⟨0x01, 0x0000, 0x000A, 0x70, 0x0C⟩).wellFormed = false ∧
      (Instr.requestFrame ⟨0x01, 0x0000, 0x000A, 0x0D, 0x70⟩).wellFormed = false := by decide +kernel

/-- The two frames of R71. -/
theorem test_wellFormed_frames :
    (Instr.requestFrame ⟨0x01, 0x0000, 0x000A, 0x70, 0x0D⟩).wellFormed = true ∧
      (Instr.requestFrame ⟨0x01, 0x0000, 0x0003, 0xB0, 0x0B⟩).wellFormed = true := by decide +kernel

/-! The functions. -/

/-- V4. -/
theorem test_crc_bit :
    crcBit 0x0000 = 0x0000 ∧ crcBit 0x0001 = 0xA001 ∧ crcBit 0x8000 = 0x4000 ∧ crcBit 0xFFFF = 0xDFFE ∧
      crcBit 0xA001 = 0xF001 := by decide

/-- V6, the check value of R108. -/
theorem test_crc16_check : crc16 [0x31, 0x32, 0x33, 0x34, 0x35, 0x36, 0x37, 0x38, 0x39] = some 0x4B37 := by decide +kernel

/-- R107 (c), U1: no checksum of nothing. -/
theorem test_crc16_empty : crc16 [] = none := by decide

/-- V30, V38: the root rounds down. -/
theorem test_isqrt : isqrt 1890000000000 = 1374772 ∧ isqrt 99000000 = 9949 := by decide

/-! The instructions. -/

/-- R103's example. -/
theorem test_crcinit :
    (after (exec .crcinit { State.reset with crc := 0x1234 })).map State.crc = some 0xFFFF := by decide

/-- V5. -/
theorem test_crcbyte_one : (after (exec (.crcbyte 0x01) State.reset)).map State.crc = some 0x807E := by decide

/-- V5. -/
theorem test_crcbyte_ff : (after (exec (.crcbyte 0xFF) State.reset)).map State.crc = some 0x00FF := by decide

/-- V18, from `CFG` = 0x0101. -/
theorem test_setaddr :
    (after (exec (.setaddr 0xF8) { State.reset with cfg := 0x0101 })).map State.cfg = some 0x01F8 := by decide

/-- V18. -/
theorem test_setcrcen :
    (after (exec (.setcrcen 1) State.reset)).map State.cfg = some 0x0101 ∧
      (after (exec (.setcrcen 0) { State.reset with cfg := 0x01F8 })).map State.cfg = some 0x00F8 := by decide

/-- V14. -/
theorem test_buildreq :
    (after (exec (.buildreq 0x0000 1) State.reset)).map (fun t => (memRead t.tx 0 8, t.crc, t.status)) =
      some ([0x01, 0x04, 0x00, 0x00, 0x00, 0x01, 0x31, 0xCA], 0xCA31, 0x00000020) := by decide +kernel

/-- V17. -/
theorem test_buildreq_count_zero :
    after (exec (.buildreq 0x0000 0) State.reset) = some { State.reset with status := 0x00020080 } := by decide

/-- R136, V28: the outcome stays. -/
theorem test_rxclr :
    (after (exec .rxclr { State.reset with rxlen := 32, status := 0x00000052 })).map (fun t => (t.rxlen, t.status)) =
      some (0, 0x00000012) := by decide

/-- R137's example. -/
theorem test_rxpush :
    (after (exec (.rxpush 0x08) { State.reset with rxlen := 3 })).map (fun t => (Memory.read t.rx 3, t.rxlen, t.status)) =
      some (0x08, 4, 0x00000000) := by decide

/-- V28, `RXMAX` = 32. -/
theorem test_rxpush_overrun :
    after (exec (.rxpush 0x55) { State.reset with rxlen := 32 }) =
      some { State.reset with rxlen := 32, status := 0x00000040 } := by decide

/-- V21. -/
theorem test_decode_ten :
    (after (exec (.decode 10) (rxHolds responseB 0x0101 0))).map
        (fun t => ((t.status, t.crc, t.regV, t.regI), t.regP, t.regE, t.regF, t.regPF)) =
      some ((0x00003F01, 0xBC25, 2301, 74565), 100000, 196607, 499, 100) := by decide +kernel

/-- V26, policy on. -/
theorem test_decode_crcfail :
    (after (exec (.decode 10) (rxHolds (responseA.set 4 0x99) 0x0101 0x20))).map (fun t => (t.status, t.crc)) =
      some (0x0000002E, 0xB49A) := by decide +kernel

/-- V33: the negative radicand is clamped; V30. -/
theorem test_derive :
    (after (exec .derive (reading 2200 1500 3000))).map (fun t => (t.regS, t.regQ, t.status)) =
        some (3300000, 1374772, 0x0000FF01) ∧
      (after (exec .derive (reading 2200 1500 3301))).map (fun t => (t.regS, t.regQ)) = some (3300000, 0) := by decide

/-- V42: after a three-register Reading. -/
theorem test_derive_no_input :
    (after (exec .derive { State.reset with status := 0x00000301 })).map State.status = some 0x00030381 := by decide

/-- V10's frame on the line. -/
theorem test_request_frame :
    (after (exec (.requestFrame ⟨0x01, 0x0000, 0x000A, 0x70, 0x0D⟩) State.reset)).map State.line =
      some [0x01, 0x04, 0x00, 0x00, 0x00, 0x0A, 0x70, 0x0D] := by decide

/-- V20. -/
theorem test_response_n10 :
    (after (exec (.responseN10 ⟨0x010414, 0x0898, 0x05DC, 0x0000, 0x0BB8, 0x0000, 0x3039, 0x0000, 0x01F4, 0x005B, 0x0000,
        0xA7, 0x48⟩) State.reset)).map (fun t => (t.status, t.rxlen, t.regI, t.regE)) =
      some (0x00003F01, 25, 1500, 12345) := by decide +kernel

/-- V21, the three-register response. -/
theorem test_response_n3 :
    (after (exec (.responseN3 ⟨0x010406, 0x0898, 0x05DC, 0x0000, 0x81, 0x31⟩) State.reset)).map
        (fun t => (t.status, t.regV, t.regI)) = some (0x00000301, 2200, 1500) := by decide +kernel

/-! The step, the ports and reset. -/

/-- V45: an illegal word. -/
theorem test_step_illegal :
    after (step (port 0x2000000001)) = some { State.reset with status := 0x00010080 } := by decide

/-- V46: a halted block ignores a command. -/
theorem test_step_halted :
    after (step { port 0x120000000A with status := 0x00020080 }) = some { State.reset with status := 0x00020080 } := by
  decide

/-- U9: a Reading register that is not valid. -/
theorem test_step_unspecified_read :
    faultOf (step { State.reset with pending := [.observe (.reg .v)] }) = some (.unspecifiedRead (.reg .v)) := by decide

/-- R29, R33. -/
theorem test_step_observe_func :
    (after (step { State.reset with pending := [.observe (.reg .func)] })).map State.observed = some (some 0x04) := by
  decide

/-- R210: reset out of a halted state. -/
theorem test_step_reset :
    after (step { State.reset with status := 0x00010080, crc := 0x1234, cfg := 0x01F8, pending := [.reset] }) =
      some State.reset := by decide

/-- R191, R73: an exception response is pushed byte by byte, and a DECODE 10 after it gives NODATA, SHORT. -/
theorem test_step_stray_bytes :
    (after (step (wireHolds exceptionResponse 0))).map (fun t => (t.rxlen, t.rx.map Prod.snd)) =
        some (5, exceptionResponse) ∧
      ((after (step (wireHolds exceptionResponse 0))).bind (fun t => after (exec (.decode 10) t))).map State.status =
        some 0x00000006 := by decide

/-- Every row's word of zeros runs as the first instruction after reset. -/
theorem test_fetch_word_commands :
    (after (step (State.reset.withFetchWord 40 0x0200000000))).map State.crc = some 0x40BF ∧
      (after (step (State.reset.withFetchWord 40 0x2200000000))).map State.status = some 0x0000000A := by decide

/-- The three wire rows' words of zeros. -/
theorem test_fetch_word_frames :
    (after (step (State.reset.withFetchWord 64 0x0004000000000000))).map (fun t => t.line.length) = some 8 ∧
      (after (step (State.reset.withFetchWord 88 0))).map State.rxlen = some 11 ∧
      (after (step (State.reset.withFetchWord 200 0))).map State.rxlen = some 25 := by decide +kernel

/-- R35, R7. -/
theorem test_reset_values :
    State.reset.crc = 0xFFFF ∧ State.reset.cfg = 0x0001 ∧ State.reset.status = 0 ∧ State.reset.rxMax = 32 := by decide

/-! Witnesses: for every statement with hypotheses, a state and operands that meet them all together, clause by clause, at
the boundary of a range where a clause has one. -/

theorem witness_CrcinitStartsChecksum :
    ((0x0100000000 : CommandWord).extractLsb' 32 8 = 0x01 ∧ ((0x0100000000 : CommandWord).extractLsb' 0 32 = 0)) ∧
      ((0x0100000001 : CommandWord).extractLsb' 32 8 = 0x01 ∧ ¬ ((0x0100000001 : CommandWord).extractLsb' 0 32 = 0) ∧
        (port 0x0100000001).pending = .command 0x0100000001 :: [] ∧ (port 0x0100000001).halted = false) ∧
      State.reset.halted = false := by decide

theorem witness_CrcbyteFoldsEightBitSteps :
    ((0x02000000FF : CommandWord).extractLsb' 32 8 = 0x02 ∧ (((0x02000000FF : CommandWord).extractLsb' 0 32).extractLsb' 8 24 = 0)) ∧
      ((0x0200000100 : CommandWord).extractLsb' 32 8 = 0x02 ∧ ¬ (((0x0200000100 : CommandWord).extractLsb' 0 32).extractLsb' 8 24 = 0) ∧
        (port 0x0200000100).pending = .command 0x0200000100 :: [] ∧ (port 0x0200000100).halted = false) ∧
      State.reset.halted = false := by decide

theorem witness_CrcResidueIsZero : crc16 [0x01] = some 0x807E := by decide

theorem witness_CrcOkExactlyWhenResidueZero : 3 ≤ ([0x01, 0x7E, 0x80] : List Byte).length := by decide

theorem witness_PseudoCrc16ComputesChecksum : State.reset.halted = false := by decide

theorem witness_SetaddrWritesAddressOnly :
    ((0x10000000FF : CommandWord).extractLsb' 32 8 = 0x10 ∧ (((0x10000000FF : CommandWord).extractLsb' 0 32).extractLsb' 8 24 = 0)) ∧
      ((0x1000000100 : CommandWord).extractLsb' 32 8 = 0x10 ∧ ¬ (((0x1000000100 : CommandWord).extractLsb' 0 32).extractLsb' 8 24 = 0) ∧
        (port 0x1000000100).pending = .command 0x1000000100 :: [] ∧ (port 0x1000000100).halted = false) ∧
      State.reset.halted = false := by decide

theorem witness_SetcrcenWritesPolicyOnly :
    ((0x1100000001 : CommandWord).extractLsb' 32 8 = 0x11 ∧ (((0x1100000001 : CommandWord).extractLsb' 0 32).extractLsb' 1 31 = 0)) ∧
      ((0x1100000002 : CommandWord).extractLsb' 32 8 = 0x11 ∧ ¬ (((0x1100000002 : CommandWord).extractLsb' 0 32).extractLsb' 1 31 = 0) ∧
        (port 0x1100000002).pending = .command 0x1100000002 :: [] ∧ (port 0x1100000002).halted = false) ∧
      State.reset.halted = false := by decide

/-- Both clauses: counts 1 and 65535 are the ends of the range, 0 is outside it. -/
theorem witness_BuildreqBuildsFrameOrRefuses :
    (0x12FFFFFFFF : CommandWord).extractLsb' 32 8 = 0x12 ∧ State.reset.halted = false ∧
      Memory.wf State.reset.tx = true ∧ (0x0001 : Word16) ≠ 0 ∧ (0xFFFF : Word16) ≠ 0 := by decide

theorem witness_BuiltFrameHasRightTrailer :
    State.reset.halted = false ∧ Memory.wf State.reset.tx = true ∧ (0x000A : Word16) ≠ 0 := by decide

/-- Two states that differ in all but the address. -/
theorem witness_BuiltFrameDependsOnAddressAndRangeOnly :
    State.reset.halted = false ∧ (rxHolds responseT 0x0101 0x40).halted = false ∧ Memory.wf State.reset.tx = true ∧
      Memory.wf (rxHolds responseT 0x0101 0x40).tx = true ∧ (0x0003 : Word16) ≠ 0 ∧
      State.reset.cfg.extractLsb' 0 8 = (rxHolds responseT 0x0101 0x40).cfg.extractLsb' 0 8 := by decide

theorem witness_BuiltFrameIsRequestFrame :
    State.reset.halted = false ∧ Memory.wf State.reset.tx = true ∧ (0xFFFF : Word16) ≠ 0 := by decide

theorem witness_RxclrEmptiesBuffer :
    ((0x2000000000 : CommandWord).extractLsb' 32 8 = 0x20 ∧ ((0x2000000000 : CommandWord).extractLsb' 0 32 = 0)) ∧
      ((0x2080000000 : CommandWord).extractLsb' 32 8 = 0x20 ∧ ¬ ((0x2080000000 : CommandWord).extractLsb' 0 32 = 0) ∧
        (port 0x2080000000).pending = .command 0x2080000000 :: [] ∧ (port 0x2080000000).halted = false) ∧
      State.reset.halted = false := by decide

theorem witness_RxclrErasesNoByte : (rxHolds responseT 1 0x40).halted = false := by decide

/-- The words, and a buffer with one place left and a full one. -/
theorem witness_RxpushAppendsOrOverflows :
    ((0x2100000098 : CommandWord).extractLsb' 32 8 = 0x21 ∧
        ((0x2100000098 : CommandWord).extractLsb' 0 32).extractLsb' 8 24 = 0) ∧
      ((0x2100000100 : CommandWord).extractLsb' 32 8 = 0x21 ∧
        ¬ ((0x2100000100 : CommandWord).extractLsb' 0 32).extractLsb' 8 24 = 0 ∧
        (port 0x2100000100).pending = .command 0x2100000100 :: [] ∧ (port 0x2100000100).halted = false) ∧
      (State.halted { State.reset with rxlen := 31 } = false ∧
        (31 : BitVec 8).toNat < State.rxMax { State.reset with rxlen := 31 }) ∧
      (State.halted { State.reset with rxlen := 32 } = false ∧
        State.rxMax { State.reset with rxlen := 32 } ≤ (32 : BitVec 8).toNat) := by decide

theorem witness_DecodeWords :
    ((0x220000FFFF : CommandWord).extractLsb' 32 8 = 0x22 ∧ (((0x220000FFFF : CommandWord).extractLsb' 0 32).extractLsb' 16 16 = 0)) ∧
      ((0x2200010000 : CommandWord).extractLsb' 32 8 = 0x22 ∧ ¬ (((0x2200010000 : CommandWord).extractLsb' 0 32).extractLsb' 16 16 = 0) ∧
        (port 0x2200010000).pending = .command 0x2200010000 :: [] ∧ (port 0x2200010000).halted = false) ∧
      State.reset.halted = false := by decide

/-- The three clauses; the lengths are one below the two minima. -/
theorem witness_DecodeNoDataBeforeChecksum :
    State.reset.halted = false ∧ ((4 : Word16) ≠ 3 ∧ (4 : Word16) ≠ 10 ∧ (2 : BitVec 3) = 2) ∧
      (((10 : Word16) = 3 ∨ (10 : Word16) = 10) ∧ (rxHolds [] 1 0x40).status.getLsbD 6 = true ∧
        (rxHolds [] 1 0x40).halted = false) ∧
      (State.halted { State.reset with rxlen := 24 } = false ∧ (0 : Word32).getLsbD 6 = false ∧
        (24 : BitVec 8).toNat < 5 + 2 * (10 : Word16).toNat) ∧
      (State.halted { State.reset with rxlen := 10 } = false ∧ (10 : BitVec 8).toNat < 5 + 2 * (3 : Word16).toNat) := by
  decide

/-- Both clauses of the check, at the shortest lengths: a right trailer, and a wrong last byte. -/
theorem witness_DecodeChecksWholeResponse :
    ((rxHolds responseA 0x0101 0).halted = false ∧ (rxHolds responseA 0x0101 0).cfg.getLsbD 8 = true ∧
        crc16 (memRead (rxHolds responseA 0x0101 0).rx 0 23) = some 0x48A7 ∧
        Memory.read (rxHolds responseA 0x0101 0).rx 23 = 0xA7 ∧ Memory.read (rxHolds responseA 0x0101 0).rx 24 = 0x48) ∧
      (rxHolds (responseA.set 24 0x49) 0x0101 0).halted = false ∧
      Memory.read (rxHolds (responseA.set 24 0x49) 0x0101 0).rx 24 ≠ 0x48 := by decide +kernel

theorem witness_PassesEarly :
    PassesEarly 10 (rxHolds responseA 0x0101 0) ∧ PassesEarly 10 (rxHolds (responseA.set 24 0x49) 0x0101 0) ∧
      PassesEarly 3 (rxHolds responseT 0x0101 0) := by
  unfold PassesEarly
  decide

/-- Policy off, and policy on with a right trailer (`PassesEarly`: `witness_PassesEarly`). -/
theorem witness_DecodeTenExtractsFields :
    (rxHolds responseA 0x0001 0).halted = false ∧ (rxHolds responseA 0x0001 0).cfg.getLsbD 8 = false ∧
      (rxHolds responseA 0x0101 0).halted = false ∧ (rxHolds responseA 0x0101 0).cfg.getLsbD 8 = true ∧
      crcOk (received (rxHolds responseA 0x0101 0)) = true := by decide +kernel

/-- The same for the three-register response (`PassesEarly`: `witness_PassesEarly`). -/
theorem witness_DecodeThreeExtractsVoltageAndCurrent :
    (rxHolds responseT 0x0001 0).halted = false ∧ (rxHolds responseT 0x0001 0).cfg.getLsbD 8 = false ∧
      (rxHolds responseT 0x0101 0).halted = false ∧ (rxHolds responseT 0x0101 0).cfg.getLsbD 8 = true ∧
      crcOk (received (rxHolds responseT 0x0101 0)) = true := by decide +kernel

theorem witness_DecodeRefinesPureDecoder :
    (rxHolds responseB 0x0101 0).halted = false ∧ (rxHolds responseB 0x0101 0).status.getLsbD 6 = false := by decide

/-- Two states that agree on the response and differ in `CRC`, the address and the outcome. -/
theorem witness_DecodeIsPure :
    (rxHolds [] 0x0001 0).halted = false ∧ State.halted { rxHolds [] 0x00F8 0x0E with crc := 0x1234 } = false ∧
      (rxHolds [] 0x0001 0).rxlen = 0 ∧ (0 : Word32).getLsbD 6 = (0x0E : Word32).getLsbD 6 ∧
      (0x0001 : Word16).getLsbD 8 = (0x00F8 : Word16).getLsbD 8 := by decide

theorem witness_DecodeIsIdempotent : (rxHolds responseA 0x0101 0).halted = false := by decide

/-- A response that just fits, and one byte more. -/
theorem witness_RxloadFillsBuffer :
    State.reset.halted = false ∧ Memory.wf State.reset.rx = true ∧ (List.replicate 32 (0 : Byte)).length = State.reset.rxMax ∧
      State.reset.rxMax < (List.replicate 33 (0 : Byte)).length := by decide

theorem witness_LoadedResponseIsDecoded :
    State.reset.halted = false ∧ Memory.wf State.reset.rx = true ∧
      (List.replicate 32 (0 : Byte)).length ≤ State.reset.rxMax ∧
      (State.reset.rxMax < (List.replicate 33 (0 : Byte)).length ∧ ((10 : Word16) = 3 ∨ (10 : Word16) = 10)) := by decide

/-- The words, the inputs valid, and one of them missing. -/
theorem witness_DeriveComputesOrRefuses :
    ((0x3000000000 : CommandWord).extractLsb' 32 8 = 0x30 ∧ (0x3000000000 : CommandWord).extractLsb' 0 32 = 0) ∧
      ((0x3080000000 : CommandWord).extractLsb' 32 8 = 0x30 ∧ ¬ (0x3080000000 : CommandWord).extractLsb' 0 32 = 0 ∧
        (port 0x3080000000).pending = .command 0x3080000000 :: [] ∧ (port 0x3080000000).halted = false) ∧
      ((reading 2200 1500 3000).halted = false ∧ (reading 2200 1500 3000).status.getLsbD 8 = true ∧
        (reading 2200 1500 3000).status.getLsbD 9 = true ∧ (reading 2200 1500 3000).status.getLsbD 10 = true) ∧
      ((rxHolds [] 1 0x00000301).halted = false ∧ (rxHolds [] 1 0x00000301).status.getLsbD 10 = false) := by decide

theorem witness_DeriveApproximatesIdealPower :
    (reading 10 1000 1).halted = false ∧ (reading 10 1000 1).status.getLsbD 8 = true ∧
      (reading 10 1000 1).status.getLsbD 9 = true ∧ (reading 10 1000 1).status.getLsbD 10 = true := by decide

/-- No power, and a power factor of exactly 1. -/
theorem witness_DeriveCornerCases :
    ((reading 2200 1500 0).halted = false ∧ (reading 2200 1500 0).status.extractLsb' 8 3 = 7 ∧
        (reading 2200 1500 0).regP = 0) ∧
      ((reading 2200 1500 3300).halted = false ∧ (reading 2200 1500 3300).status.extractLsb' 8 3 = 7 ∧
        (reading 2200 1500 3300).regV.toNat * (reading 2200 1500 3300).regI.toNat ≤
          1000 * (reading 2200 1500 3300).regP.toNat) := by decide

/-- Every field valid; after a DECODE 3, voltage and current only. -/
theorem witness_ScalerIsExact :
    (rxHolds [] 1 0x0000FF01).status.extractLsb' 8 8 = 0xFF ∧
      (rxHolds [] 1 0x00000301).status.getLsbD 9 = true ∧ (rxHolds [] 1 0x00000301).status.getLsbD 10 = false := by decide

theorem witness_PayloadCarriesReading : (rxHolds [] 1 0x0000FF01).status.extractLsb' 8 8 = 0xFF := by decide

/-- Both refusals. -/
theorem witness_RefusalsAreThese :
    (exec (.buildreq 0 0) State.reset = .next { State.reset with status := 0x00020080 } ∧
        State.reset.halted = false ∧ State.halted { State.reset with status := 0x00020080 } = true) ∧
      exec .derive State.reset = .next { State.reset with status := 0x00030080 } ∧
      State.halted { State.reset with status := 0x00030080 } = true := by
  refine ⟨⟨rfl, by decide, by decide⟩, rfl, by decide⟩

/-- A word no row selects, and one that a row does. -/
theorem witness_UnmappedWordsAreRefused :
    (∀ row ∈ opcodeMap, (0x1300000000 : CommandWord) &&& row.2 ≠ row.1) ∧
      (port 0x1300000000).pending = .command 0x1300000000 :: [] ∧ (port 0x1300000000).halted = false ∧
      ∃ row ∈ opcodeMap, (0x12FFFFFFFF : CommandWord) &&& row.2 = row.1 := by
  refine ⟨by simp [opcodeMap], rfl, by decide, (0x1200000000, 0xFF00000000), by simp [opcodeMap], by decide⟩

theorem witness_HaltedBlockIgnoresCommands :
    ({ port 0x120000000A with status := 0x00020080 } : State).status.getLsbD 7 = true ∧
      ({ port 0x120000000A with status := 0x00020080 } : State).pending = .command 0x120000000A :: [] ∧
      (Loc.reg .status).exists { State.reset with status := 0x00020080, pending := [.observe (.reg .status)] } = true ∧
      (Loc.reg .status).value { State.reset with status := 0x00020080, pending := [.observe (.reg .status)] } =
        some 0x00020080 := by decide

/-- A state in which all three premises hold: halted, a frame built, an outcome. -/
theorem witness_OnlyResetClearsStickyStatus :
    step (rxHolds [] 1 0x000200A6) = .next (rxHolds [] 1 0x000200A6) ∧
      (∀ rest, (rxHolds [] 1 0x000200A6).pending ≠ .reset :: rest) ∧
      (rxHolds [] 1 0x000200A6).status.getLsbD 7 = true ∧ (rxHolds [] 1 0x000200A6).status.getLsbD 5 = true ∧
      (rxHolds [] 1 0x000200A6).status.extractLsb' 0 2 ≠ 0 := by
  refine ⟨rfl, (by intro rest h; cases h), by decide, by decide, by decide⟩

theorem witness_ResetGivesSpecifiedState :
    State.pending { rxHolds responseA 0x01F8 0x00010080 with pending := [.reset] } = .reset :: [] := by decide

theorem witness_ResetKeepsHostSide :
    State.pending { rxHolds responseA 0x01F8 0 with pending := [.reset, .observe (.reg .crc)], line := [0x01] } =
      .reset :: [.observe (.reg .crc)] := by decide

theorem witness_ObservationHasNoSideEffect :
    State.pending { rxHolds responseT 1 0 with pending := [.observe (.rx 10)] } = .observe (.rx 10) :: [] ∧
      (Loc.rx 10).exists { rxHolds responseT 1 0 with pending := [.observe (.rx 10)] } = true ∧
      (Loc.rx 10).value { rxHolds responseT 1 0 with pending := [.observe (.rx 10)] } = some 0x31 := by decide

/-- The first index beyond a buffer, and the first that holds no value. -/
theorem witness_UnspecifiedObservationFaults :
    State.pending { State.reset with pending := [.observe (.tx 8)] } = .observe (.tx 8) :: [] ∧
      (Loc.tx 8).exists { State.reset with pending := [.observe (.tx 8)] } = false ∧
      (Loc.rx 11).exists { rxHolds responseT 1 0 with pending := [.observe (.rx 11)] } = true ∧
      (Loc.rx 11).value { rxHolds responseT 1 0 with pending := [.observe (.rx 11)] } = none := by decide

/-- One instruction for each premise. -/
theorem witness_OnlyTheListedCommandsWrite :
    (∃ t, exec (.crcbyte 0) State.reset = .next t ∧ t.crc ≠ State.reset.crc) ∧
      (∃ t, exec (.setaddr 2) State.reset = .next t ∧ t.cfg ≠ State.reset.cfg) ∧
      (∃ t, exec (.decode 10) State.reset = .next t ∧ t.status ≠ State.reset.status) ∧
      (∃ t, exec (.rxpush 1) State.reset = .next t ∧ t.rxlen ≠ State.reset.rxlen ∧ t.rx ≠ State.reset.rx) ∧
      (∃ t, exec (.decode 10) (rxHolds responseA 1 0) = .next t ∧
        (t.regV, t.regI) ≠ ((rxHolds responseA 1 0).regV, (rxHolds responseA 1 0).regI) ∧
        (t.regP, t.regE, t.regF, t.regPF) ≠ ((rxHolds responseA 1 0).regP, (rxHolds responseA 1 0).regE,
          (rxHolds responseA 1 0).regF, (rxHolds responseA 1 0).regPF)) ∧
      (∃ t, exec .derive (reading 1 1 0) = .next t ∧
        (t.regS, t.regQ) ≠ ((reading 1 1 0).regS, (reading 1 1 0).regQ)) ∧
      (∃ t, exec (.buildreq 0 3) State.reset = .next t ∧ t.tx ≠ State.reset.tx) ∧
      (∃ t, exec (.requestFrame ⟨1, 0, 3, 0xB0, 0x0B⟩) State.reset = .next t ∧ t.line ≠ State.reset.line) := by
  refine ⟨⟨_, rfl, by decide⟩, ⟨_, rfl, by decide⟩, ⟨_, rfl, by decide⟩, ⟨_, rfl, by decide⟩, ⟨_, rfl, by decide⟩,
    ⟨_, rfl, by decide⟩, ⟨_, rfl, by decide +kernel⟩, ⟨_, rfl, by decide⟩⟩

/-- The three clauses on the policy and the trailer. -/
theorem witness_ResponseN10IsLoadedAndDecoded :
    State.reset.halted = false ∧ Memory.wf State.reset.rx = true ∧ State.reset.cfg.getLsbD 8 = false ∧
      (rxHolds [] 0x0101 0).halted = false ∧ (rxHolds [] 0x0101 0).cfg.getLsbD 8 = true ∧
      crcOk (encode (.responseN10 ⟨0x010414, 0x0898, 0x05DC, 0, 0x0BB8, 0, 0x3039, 0, 0x01F4, 0x5B, 0, 0xA7, 0x48⟩)) =
        true ∧
      crcOk (encode (.responseN10 ⟨0x010414, 0x0899, 0x05DC, 0, 0x0BB8, 0, 0x3039, 0, 0x01F4, 0x5B, 0, 0xA7, 0x48⟩)) =
        false := by decide +kernel

theorem witness_ResponseN3IsLoadedAndDecoded :
    State.reset.halted = false ∧ Memory.wf State.reset.rx = true ∧ State.reset.cfg.getLsbD 8 = false ∧
      (rxHolds [] 0x0101 0).halted = false ∧ (rxHolds [] 0x0101 0).cfg.getLsbD 8 = true ∧
      crcOk (encode (.responseN3 ⟨0x010406, 0x0898, 0x05DC, 0, 0x81, 0x31⟩)) = true ∧
      crcOk (encode (.responseN3 ⟨0x010406, 0x0899, 0x05DC, 0, 0x81, 0x31⟩)) = false := by decide +kernel

/-- The last byte of `TX`, and the first index beyond it, with a frame built; the last byte received. -/
theorem witness_ObservableValues :
    (Loc.tx 7).value (rxHolds [] 1 0x20) = some 0 ∧ (Loc.tx 8).value (rxHolds [] 1 0x20) = none ∧
      (Loc.rx 10).value (rxHolds responseT 1 0) = some 0x31 ∧ (Loc.rx 11).value (rxHolds responseT 1 0) = none := by decide

/-- A row and a word it selects, with the operand at its largest. -/
theorem witness_OpcodeRowsDoNotOverlap :
    ∃ r ∈ commandRows, r.selects 0x21000000FF = true := by
  refine ⟨⟨0x2100000000, 0xFFFFFFFF00, fun w => .rxpush (byteField w)⟩, ?_, by decide⟩
  simp [commandRows]

/-- An exception response, for a block that accepts commands and for a halted one; more bytes than the buffer holds. -/
theorem witness_StrayBytesAreLoaded :
    (wireHolds exceptionResponse 0).pending = .wire exceptionResponse :: [] ∧
      decodeFrame exceptionResponse = .error (.noLayout 5) ∧ Memory.wf (wireHolds exceptionResponse 0).rx = true ∧
      (wireHolds exceptionResponse 0).halted = false ∧ (wireHolds exceptionResponse 0x00020080).halted = true ∧
      decodeFrame (List.replicate 33 0) = .error (.noLayout 33) ∧
      (wireHolds exceptionResponse 0).rxMax < (List.replicate 33 (0 : Byte)).length := by
  refine ⟨rfl, rfl, rfl, by decide, by decide, rfl, by decide⟩

/-- The three ways a step can go. -/
theorem witness_StepStopsOnlyOnUnspecifiedObservation :
    (∃ t, step State.reset = .next t) ∧
      (State.pending { State.reset with pending := [.observe (.rx 32)] } = .observe (.rx 32) :: [] ∧
        (Loc.rx 32).exists { State.reset with pending := [.observe (.rx 32)] } = false) ∧
      (Loc.tx 7).exists { State.reset with pending := [.observe (.tx 7)] } = true ∧
      (Loc.tx 7).value { State.reset with pending := [.observe (.tx 7)] } = none := by
  refine ⟨⟨_, rfl⟩, by decide, by decide, by decide⟩

theorem witness_EncodeOfDecode : decodeBytes [0x10, 0x00, 0x00, 0x00, 0xF8] = .ok (.setaddr 0xF8) := by rfl

/-- A command word, a wire frame, and nothing pending. -/
theorem witness_StepRunsDecodedInstruction :
    ((port 0x3000000000).pending = .command 0x3000000000 :: [] ∧ decodeCommand 0x3000000000 = .ok .derive) ∧
      (State.pending { State.reset with pending := [.wire responseT] } = .wire responseT :: [] ∧
        decodeFrame responseT = .ok (.responseN3 ⟨0x010406, 0x0898, 0x05DC, 0x0000, 0x81, 0x31⟩)) ∧
      State.reset.pending = [] := by
  refine ⟨⟨rfl, rfl⟩, ⟨rfl, rfl⟩, rfl⟩

/-- A state with all eight fields of a Reading and a frame in `TX` (P3), and a step of it. -/
def fullReading : State :=
  { reading 2200 1500 3000 with
    status := 0x0000FF21, regS := 3300000, regQ := 1374772,
    tx := memWrite [] 0 [0x01, 0x04, 0x00, 0x00, 0x00, 0x0A, 0x70, 0x0D], pending := [.command 0x0100000000] }

theorem witness_StepKeepsInvariant :
    Safety.BlockInv fullReading ∧ step fullReading = .next { fullReading with pending := [] } := by
  refine ⟨⟨?_, ?_, ?_, ?_, ?_, ?_, ?_, ?_⟩, rfl⟩
  · unfold Safety.ReservedZero
    decide
  · exact .inr ⟨.inr (by decide), by decide⟩
  · exact .inl ⟨by decide, by decide⟩
  · exact .inr ⟨by decide, .inr (.inr (by decide))⟩
  · unfold Safety.RxLegal
    decide
  · unfold Safety.BuffersLegal
    decide
  · exact fun _ => ⟨by decide, by decide +kernel⟩
  · exact fun _ => by decide +kernel

/-- The loop idle on a block after reset: a response too long, a full one, a three-register one, silence. -/
theorem witness_PollCycleProducesOneOutcome :
    (PollLoop.mk .idle State.reset []).phase = .idle ∧ State.reset.halted = false ∧
      Memory.wf State.reset.rx = true ∧ Memory.wf State.reset.tx = true ∧
      State.reset.rxMax < (List.replicate 33 (0 : Byte)).length ∧ responseA.length ≤ State.reset.rxMax ∧
      decodeResponse responseA 10 false = .reading (readingTen responseA) ∧
      decodeResponse responseT 3 false = .reading (readingThree responseT) ∧
      decodeResponse [] 10 false = .noData .short := by decide +kernel

end Sys2Proof.Tests
end

section
/-! PROOFS. The scope of the unit (spec/00_scope.md). -/

namespace Sys2Proof.Machine

/-- Every row but the request frame is a command of the block: one effect, taken or ignored as `accept` decides (R186). -/
theorem exec_eq_accept (i : Instr) (hi : ∀ f, i ≠ .requestFrame f) :
    ∃ effect : State → State, ∀ s, exec i s = accept s effect := by
  cases i with
  | requestFrame f => exact absurd rfl (hi f)
  | crcinit | crcbyte | setaddr | setcrcen | buildreq | rxclr | rxpush | decode | derive | responseN10 | responseN3 =>
    exact ⟨_, fun _ => rfl⟩

end Sys2Proof.Machine

namespace Sys2Proof

open Machine

/-- Settles O32: the request frame answers on its own (log 8), and every other row is an `accept`, which always answers a
next state, whether the block takes the effect or is halted (log 6). -/
theorem everyInstructionCompletes : Obligations.EveryInstructionCompletes := by
  intro i s
  by_cases hi : ∃ f, i = .requestFrame f
  · obtain ⟨f, rfl⟩ := hi
    exact ⟨_, exec_requestFrame f s⟩
  · obtain ⟨effect, heffect⟩ := exec_eq_accept i (not_exists.1 hi)
    rw [heffect]
    exact accept_next s effect

end Sys2Proof
end

section
/-! PROOFS. The state's words and buffers as the invariant reads them: the status bits under each write of `STATUS`, a frame
followed by its trailer, and when a Reading register holds a value (spec/10_state.md R25, R28, spec/40_crc.md R105). -/

namespace Sys2Proof.Machine

/-- A field written back with what it holds changes nothing. -/
theorem putField_extract {width len : Nat} (w : BitVec width) (lo : Nat) :
    putField w lo (w.extractLsb' lo len) = w := by
  apply BitVec.eq_of_getLsbD_eq
  intro k hk
  rw [getLsbD_putField]
  split
  · rename_i hin
    rw [BitVec.getLsbD_extractLsb', Nat.add_sub_cancel' hin.1]
    simp [show k - lo < len by omega]
  · rfl

/-- The valid bits written alone are a DECODE's write that keeps outcome and cause. -/
theorem putField_valid_eq_putDecode (st : Word32) (m : BitVec 8) :
    putField st 8 m = putDecode st (stOutcome st) (stCause st) m := by
  rw [putDecode, stOutcome, putField_extract, stCause, putField_extract]

/-- A bit other than the one written is unchanged. -/
theorem getLsbD_putBit_other {width : Nat} (w : BitVec width) (k : Nat) (b : Bool) {j : Nat} (h : j ≠ k) :
    (putBit w k b).getLsbD j = w.getLsbD j := by
  rw [getLsbD_putBit, if_neg fun hj => h hj.1]

@[simp] theorem stOutcome_zero : stOutcome 0#32 = 0#2 := rfl
@[simp] theorem stCause_zero : stCause 0#32 = 0#3 := rfl
@[simp] theorem stErr_zero : stErr 0#32 = false := rfl
@[simp] theorem stErrCode_zero : stErrCode 0#32 = 0#4 := rfl
@[simp] theorem stTxv_zero : stTxv 0#32 = false := rfl
@[simp] theorem stRxOvf_zero : stRxOvf 0#32 = false := rfl
@[simp] theorem stValid_zero : stValid 0#32 = 0#8 := rfl

section
variable (st : Word32) (k : Nat) (b : Bool)

@[simp] theorem stOutcome_putBit (hk : 2 ≤ k) : stOutcome (putBit st k b) = stOutcome st :=
  extract_putBit_other st k b 0 2 (.inl hk)

@[simp] theorem stCause_putBit (hk : 5 ≤ k) : stCause (putBit st k b) = stCause st :=
  extract_putBit_other st k b 2 3 (.inl hk)

@[simp] theorem stValid_putBit (hk : k < 8) : stValid (putBit st k b) = stValid st :=
  extract_putBit_other st k b 8 8 (.inr hk)

@[simp] theorem stErrCode_putBit (hk : k < 16) : stErrCode (putBit st k b) = stErrCode st :=
  extract_putBit_other st k b 16 4 (.inr hk)

@[simp] theorem stErr_putBit (hk : k ≠ 7) : stErr (putBit st k b) = stErr st :=
  getLsbD_putBit_other st k b hk.symm

@[simp] theorem stTxv_putBit_other (hk : k ≠ 5) : stTxv (putBit st k b) = stTxv st :=
  getLsbD_putBit_other st k b hk.symm

@[simp] theorem stRxOvf_putBit_other (hk : k ≠ 6) : stRxOvf (putBit st k b) = stRxOvf st :=
  getLsbD_putBit_other st k b hk.symm

@[simp] theorem stRxOvf_putBit_same : stRxOvf (putBit st 6 b) = b := by
  rw [stRxOvf, getLsbD_putBit, if_pos (by decide)]

end

/-- A non-empty body followed by the trailer of its checksum passes the check (R105). -/
theorem crcOk_append_trailer {body : List Byte} (hne : body ≠ []) :
    crcOk (body ++ trailer (crcFold crcInit body)) = true := by
  have hlen : (body ++ trailer (crcFold crcInit body)).length - 2 = body.length := by simp [trailer]
  have hpos : 0 < body.length := List.length_pos_iff.2 hne
  rw [crcOk, hlen, List.take_left', List.drop_left', crc16_of_ne_nil hne] <;> simp [trailer]
  omega

/-- A frame `build_request` makes has a right trailer (spec/41_request.md R124). -/
theorem crcOk_buildRequest (addr : Byte) (start count : Word16) : crcOk (buildRequest addr start count) = true :=
  crcOk_append_trailer (List.cons_ne_nil _ _)

/-- Whether a register holds a value is told by `VALID` alone (R28). -/
theorem Reg.valid_congr {s t : State} (h : stValid t.status = stValid s.status) (r : Reg) : r.valid t = r.valid s := by
  simp [Reg.valid, h]

/-- No register of the Reading holds a value while `VALID` is 0 (R28). -/
theorem readReg_of_stValid_zero {r : Reg} {k : Nat} {s : State} (hr : r.validBit = some k) (h : stValid s.status = 0) :
    readReg r s = none := by
  simp [readReg, Reg.valid, hr, h]

/-- A register of the Reading is observed exactly while its bit of `STATUS` is 1, `VALID` being bits 15:8 (R25, R28). -/
theorem value_reg_of_validBit (s : State) (r : Reg) (k : Fin 8) (hr : r.validBit = some k.val) :
    (Loc.reg r).value s = if s.status.getLsbD (8 + k.val) then some (r.bits s) else none := by
  simp [Loc.value, readReg, Reg.valid, hr, stValid]

@[simp] theorem State.atReset_status (size : Config.RxSize) : (State.atReset size).status = 0 := rfl
@[simp] theorem resetBlock_cfg (s : State) : (resetBlock s).cfg = 0x0001 := rfl
@[simp] theorem resetBlock_status (s : State) : (resetBlock s).status = 0 := rfl
@[simp] theorem resetBlock_rxlen (s : State) : (resetBlock s).rxlen = 0 := rfl

/-- An observation of a location that holds a value records it (R33). -/
theorem observe_of_value {l : Loc} {s : State} {v : Word48} (he : l.exists s = true) (hv : l.value s = some v) :
    observe l s = .next (s.setObserved (some v)) := by
  simp [observe, he, hv]

/-- What RXCLR establishes and RXPUSH keeps holds after RXLOAD (spec/30_encoding.md R81). -/
theorem loadRx_induction {motive : State → Prop} {s : State} (hclear : motive (clearRx s))
    (hpush : ∀ b u, motive u → motive (pushRx b u)) (bytes : List Byte) : motive (loadRx bytes s) :=
  List.foldlRecOn bytes _ hclear fun u hu b _ => hpush b u hu

end Sys2Proof.Machine
end

section
/-! PROOFS. What an instruction can do, said once (spec/10_state.md R34, spec/60_exceptions.md R186). -/

namespace Sys2Proof.Machine

/-- What a row does when it is taken: its effect on a block that accepts commands, and for the request frame, which is no
command, its effect on the line. -/
def effectOf (i : Instr) (s : State) : State :=
  match i with
  | .crcinit => s.setCrc crcInit
  | .crcbyte b => s.setCrc (crcByte s.crc b)
  | .setaddr a => s.setCfg (putField s.cfg 0 a)
  | .setcrcen e => s.setCfg (putField s.cfg 8 e)
  | .buildreq start count => if count = 0 then refuse .badCount s else buildFrame start count s
  | .rxclr => clearRx s
  | .rxpush b => pushRx b s
  | .decode n => decodeRx n s
  | .derive => if inputsValid s then derivePower s else refuse .noInput s
  | .requestFrame f => s.setLine (requestFrameBytes f)
  | .responseN10 r => receive 10 (responseN10Bytes r) s
  | .responseN3 r => receive 3 (responseN3Bytes r) s

/-- A row that is a command of the block is taken, or ignored while the block is halted (R186). -/
theorem exec_eq_accept_effectOf {i : Instr} (hi : ∀ f, i ≠ .requestFrame f) (s : State) :
    exec i s = accept s (effectOf i) := by
  cases i with
  | requestFrame f => exact absurd rfl (hi f)
  | crcinit | crcbyte | setaddr | setcrcen | buildreq | rxclr | rxpush | decode | derive | responseN10 | responseN3 => rfl

/-- An instruction that ends changed nothing, or had its effect. -/
theorem exec_cases {i : Instr} {s t : State} (h : exec i s = .next t) : t = s ∨ t = effectOf i s := by
  by_cases hi : ∃ f, i = .requestFrame f
  · obtain ⟨f, rfl⟩ := hi
    exact .inr (Host.Outcome.next.inj h).symm
  · rw [exec_eq_accept_effectOf (not_exists.1 hi)] at h
    exact (accept_cases h).imp And.right And.right

end Sys2Proof.Machine
end

section
/-! PROOFS. The table of writes (spec/10_state.md R34): what each row can write, said once for all of them. -/

namespace Sys2Proof.Machine

/-- `s` with every part that the row of `i` can write taken from `t` (R34; the wire rows as logs 8 and 9 read them). -/
def withWrites (i : Instr) (s t : State) : State :=
  match i with
  | .crcinit => { s with crc := t.crc }
  | .crcbyte _ => { s with crc := t.crc }
  | .setaddr _ => { s with cfg := t.cfg }
  | .setcrcen _ => { s with cfg := t.cfg }
  | .buildreq _ _ => { s with crc := t.crc, status := t.status, tx := t.tx }
  | .rxclr => { s with status := t.status, rxlen := t.rxlen }
  | .rxpush _ => { s with status := t.status, rxlen := t.rxlen, rx := t.rx }
  | .decode _ =>
    { s with crc := t.crc, status := t.status, regV := t.regV, regI := t.regI, regP := t.regP, regE := t.regE,
             regF := t.regF, regPF := t.regPF }
  | .derive => { s with status := t.status, regS := t.regS, regQ := t.regQ }
  | .requestFrame _ => { s with line := t.line }
  | .responseN10 _ =>
    { s with crc := t.crc, status := t.status, rxlen := t.rxlen, rx := t.rx, regV := t.regV, regI := t.regI,
             regP := t.regP, regE := t.regE, regF := t.regF, regPF := t.regPF }
  | .responseN3 _ =>
    { s with crc := t.crc, status := t.status, rxlen := t.rxlen, rx := t.rx, regV := t.regV, regI := t.regI }

/-- A row that changed nothing wrote only what it may. -/
theorem withWrites_self (i : Instr) (s : State) : withWrites i s s = s := by
  cases i <;> rfl

/-- RXPUSH writes `STATUS`, `RXLEN` and `RX`. -/
theorem pushRx_writes (b : Byte) (s : State) : pushRx b s = withWrites (.rxpush b) s (pushRx b s) := by
  rcases pushRx_cases b s with ⟨-, h⟩ | ⟨-, h⟩
  · rw [h]; rfl
  · rw [h]; rfl

/-- RXLOAD writes what RXCLR and RXPUSH write. -/
theorem loadRx_writes (bytes : List Byte) (s : State) :
    loadRx bytes s =
      { s with status := (loadRx bytes s).status, rxlen := (loadRx bytes s).rxlen, rx := (loadRx bytes s).rx } := by
  refine loadRx_induction (motive := fun u => u = { s with status := u.status, rxlen := u.rxlen, rx := u.rx })
    rfl (fun b u hu => ?_) bytes
  rw [pushRx_writes, hu]
  rfl

/-- DECODE writes `CRC`, `STATUS` and the six fields it can extract. -/
theorem decodeRx_writes (n : Word16) (s : State) : decodeRx n s = withWrites (.decode n) s (decodeRx n s) := by
  rcases decodeRx_cases n s with ⟨c, -, h⟩ | ⟨-, h⟩
  · rw [h, noteChecksum_eq]; rfl
  · rw [h, noteChecksum_eq]
    by_cases hn : n = 10
    · subst hn; rw [giveReading_ten]; rfl
    · rw [giveReading_three hn]; rfl

/-- DECODE with a count other than 10 extracts voltage and current at most (spec/42_decode.md R145). -/
theorem decodeRx_writes_three {n : Word16} (hn : n ≠ 10) (s : State) :
    decodeRx n s =
      { s with crc := (decodeRx n s).crc, status := (decodeRx n s).status, regV := (decodeRx n s).regV,
               regI := (decodeRx n s).regI } := by
  rcases decodeRx_cases n s with ⟨c, -, h⟩ | ⟨-, h⟩
  · rw [h, noteChecksum_eq]; rfl
  · rw [h, noteChecksum_eq, giveReading_three hn]; rfl

section
variable {s u t : State} (hload : u = { s with status := u.status, rxlen := u.rxlen, rx := u.rx })
include hload

/-- A ten-register response writes what RXLOAD and DECODE write (log 9). -/
theorem withWrites_responseN10 (r : ResponseN10) (hdecode : t = withWrites (.decode 10) u t) :
    t = withWrites (.responseN10 r) s t := by
  rw [hdecode, hload]; rfl

/-- A three-register response writes what RXLOAD and a DECODE of voltage and current write (log 9). -/
theorem withWrites_responseN3 (r : ResponseN3)
    (hdecode : t = { u with crc := t.crc, status := t.status, regV := t.regV, regI := t.regI }) :
    t = withWrites (.responseN3 r) s t := by
  rw [hdecode, hload]; rfl

end

/-- The effect of a row keeps to its writes. -/
theorem effectOf_writes (i : Instr) (s : State) : effectOf i s = withWrites i s (effectOf i s) := by
  cases i with
  | crcinit | crcbyte | setaddr | setcrcen | rxclr | requestFrame => rfl
  | buildreq start count =>
    rw [effectOf]
    split <;> rfl
  | rxpush b => exact pushRx_writes b s
  | decode n => exact decodeRx_writes n s
  | derive =>
    rw [effectOf]
    split <;> rfl
  | responseN10 r => exact withWrites_responseN10 (loadRx_writes _ s) r (decodeRx_writes 10 _)
  | responseN3 r => exact withWrites_responseN3 (loadRx_writes _ s) r (decodeRx_writes_three (by decide) _)

/-- Every instruction keeps to the writes of its row (R34). -/
theorem exec_writes {i : Instr} {s t : State} (h : exec i s = .next t) : t = withWrites i s t := by
  rcases exec_cases h with rfl | rfl
  · exact (withWrites_self i t).symm
  · exact effectOf_writes i s

end Sys2Proof.Machine
end

section
/-! PROOFS. The invariant of the block under each effect a step can have (spec/10_state.md R23 to R31). -/

namespace Sys2Proof.Safety

open Machine

variable {s t : State}

/-- The clause on `S` and `Q` reads `VALID`, `V`, `I`, `P`, `S` and `Q` alone. -/
theorem DerivedLegal.congr (h : DerivedLegal s) (hvalid : stValid t.status = stValid s.status) (hV : t.regV = s.regV)
    (hI : t.regI = s.regI) (hP : t.regP = s.regP) (hS : t.regS = s.regS) (hQ : t.regQ = s.regQ) : DerivedLegal t := by
  rw [DerivedLegal, Reg.valid_congr hvalid, hV, hI, hP, hS, hQ]
  exact h

/-- Nothing is asked of `S` and `Q` while they are not valid. -/
theorem DerivedLegal.of_stValid {m : BitVec 8} (h : stValid t.status = m) (hm : m.getLsbD 6 = false) : DerivedLegal t := by
  intro hs
  have : (stValid t.status).getLsbD 6 = true := hs
  rw [h, hm] at this
  cases this

/-- The invariant holds at reset, whatever the size of the RX buffer (R35). -/
theorem BlockInv.atReset (size : Config.RxSize) : BlockInv (State.atReset size) where
  reserved := by simp [ReservedZero, State.atReset]
  outcome := .inr ⟨.inl stOutcome_zero, stCause_zero⟩
  err := .inl ⟨stErr_zero, stErrCode_zero⟩
  valid := .inl stValid_zero
  rx := ⟨Nat.zero_le _, by simp⟩
  buffers := ⟨rfl, rfl, rfl, rfl⟩
  tx := by simp [TxLegal]
  derived := .of_stValid stValid_zero BitVec.getLsbD_zero

/-- The invariant asks nothing of `CRC` and of the host's side of the ports. -/
theorem BlockInv.of_unseen (h : BlockInv s)
    (ht : t = { s with crc := t.crc, pending := t.pending, observed := t.observed, line := t.line }) : BlockInv t := by
  rw [ht]
  exact ⟨h.reserved, h.outcome, h.err, h.valid, h.rx, h.buffers, h.tx, h.derived⟩

/-- A write of `CFG` that leaves its reserved bits (R23). -/
theorem BlockInv.setCfg (h : BlockInv s) {cfg : Word16} (hc : cfg.extractLsb' 9 7 = s.cfg.extractLsb' 9 7) :
    BlockInv (s.setCfg cfg) where
  reserved := ⟨hc.trans h.reserved.1, h.reserved.2⟩
  outcome := h.outcome
  err := h.err
  valid := h.valid
  rx := h.rx
  buffers := h.buffers
  tx := h.tx
  derived := h.derived

/-- The refusal of a command (spec/60_exceptions.md R184). -/
theorem BlockInv.refuse (h : BlockInv s) (code : RefuseCode) : BlockInv (refuse code s) where
  reserved := by
    simpa [ReservedZero, Machine.refuse, putRefuse, extract_putField_other, extract_putBit_other] using h.reserved
  outcome := by simpa [OutcomeLegal, Machine.refuse] using h.outcome
  err := .inr ⟨stErr_putRefuse _ _, code, stErrCode_putRefuse _ _⟩
  valid := by simpa [ValidLegal, Machine.refuse] using h.valid
  rx := by simpa [RxLegal, Machine.refuse, State.rxMax] using h.rx
  buffers := h.buffers
  tx := by simpa [TxLegal, Machine.refuse] using h.tx
  derived := h.derived.congr (stValid_putRefuse _ _) rfl rfl rfl rfl rfl

/-- `TXV` or `RXOVF` written, with `CRC`, `RXLEN` and the buffers: the clauses that speak of them have to be shown, the
others stay. -/
theorem BlockInv.of_putBit (h : BlockInv s) {k : Nat} {b : Bool} (hk : k = 5 ∨ k = 6)
    (ht : t = { s with status := putBit s.status k b, crc := t.crc, rxlen := t.rxlen, tx := t.tx, rx := t.rx })
    (hrx : RxLegal t) (hbuf : BuffersLegal t) (htx : TxLegal t) : BlockInv t where
  reserved := by
    rw [ht]
    simpa (disch := omega) [ReservedZero, extract_putBit_other] using h.reserved
  outcome := by
    rw [ht]
    simpa (disch := omega) [OutcomeLegal] using h.outcome
  err := by
    rw [ht]
    simpa (disch := omega) [ErrLegal] using h.err
  valid := by
    rw [ht]
    simpa (disch := omega) [ValidLegal] using h.valid
  rx := hrx
  buffers := hbuf
  tx := htx
  derived := by
    rw [ht]
    exact h.derived.congr (stValid_putBit _ _ _ (by omega)) rfl rfl rfl rfl rfl

/-- BUILDREQ leaves a frame with a right trailer in `TX` (spec/41_request.md R123, R124). -/
theorem BlockInv.buildFrame (h : BlockInv s) (start count : Word16) : BlockInv (buildFrame start count s) := by
  obtain ⟨htx, hrx, htxIn, hrxIn⟩ := h.buffers
  have hframe := memRead_memWrite htx 0 (buildRequest (cfgAddr s.cfg) start count)
  refine h.of_putBit (.inl rfl) rfl ?_ ?_ fun _ => ⟨?_, ?_⟩
  · simpa [RxLegal, Machine.buildFrame, State.rxMax] using h.rx
  · exact ⟨Memory.wf_memWrite htx _ _, hrx, Memory.within_memWrite htxIn _ _ le_rfl, hrxIn⟩
  · exact read_memWrite htx 0 (buildRequest _ start count) (k := 1) (by simp)
  · exact (congrArg crcOk hframe).trans (crcOk_buildRequest _ _ _)

/-- RXCLR empties the buffer and forgets the overflow (spec/42_decode.md R136). -/
theorem BlockInv.clearRx (h : BlockInv s) : BlockInv (clearRx s) :=
  h.of_putBit (.inr rfl) rfl (by simp [RxLegal, Machine.clearRx]) h.buffers
    (by simpa [TxLegal, Machine.clearRx] using h.tx)

/-- A byte appended below `RXMAX` (R137). Below it no overflow is recorded. -/
theorem BlockInv.appendRx (h : BlockInv s) (b : Byte) (hlt : s.rxlen.toNat < s.rxMax) :
    BlockInv ((s.setRx (Memory.write s.rx s.rxlen.toNat b)).setRxlen (s.rxlen + 1)) where
  reserved := h.reserved
  outcome := h.outcome
  err := h.err
  valid := h.valid
  rx := by
    obtain ⟨-, hovf⟩ := h.rx
    exact ⟨(toNat_rxlen_succ hlt).trans_le hlt, fun ho => absurd (hovf ho) hlt.ne⟩
  buffers := by
    obtain ⟨htx, hrx, htxIn, hrxIn⟩ := h.buffers
    exact ⟨htx, Memory.wf_write hrx _ _, htxIn, Memory.within_write hrxIn _ hlt⟩
  tx := h.tx
  derived := h.derived

/-- An overflow recorded of a full buffer (R137). -/
theorem BlockInv.overflowRx (h : BlockInv s) (hfull : s.rxMax ≤ s.rxlen.toNat) :
    BlockInv (s.setStatus (putBit s.status 6 true)) := by
  obtain ⟨hle, -⟩ := h.rx
  exact h.of_putBit (.inr rfl) rfl ⟨hle, fun _ => le_antisymm hle hfull⟩ h.buffers (by simpa [TxLegal] using h.tx)

/-- RXPUSH appends or records an overflow. -/
theorem BlockInv.pushRx (h : BlockInv s) (b : Byte) : BlockInv (pushRx b s) := by
  rcases pushRx_cases b s with ⟨hlt, he⟩ | ⟨hfull, he⟩
  · exact he ▸ h.appendRx b hlt
  · exact he ▸ h.overflowRx hfull

/-- RXLOAD is one RXCLR and then RXPUSHes (spec/30_encoding.md R81). -/
theorem BlockInv.loadRx (h : BlockInv s) (bytes : List Byte) : BlockInv (loadRx bytes s) :=
  loadRx_induction h.clearRx (fun b _ hu => hu.pushRx b) bytes

/-- Outcome, cause and valid bits written with the Reading: the clauses that speak of them have to be shown, the others
stay. -/
theorem BlockInv.of_putDecode (h : BlockInv s) {o : BitVec 2} {c : BitVec 3} {m : BitVec 8}
    (ht : t = { s with status := putDecode s.status o c m, regV := t.regV, regI := t.regI, regP := t.regP, regE := t.regE,
                       regF := t.regF, regPF := t.regPF, regS := t.regS, regQ := t.regQ })
    (ho : OutcomeLegal t) (hv : ValidLegal t) (hd : DerivedLegal t) : BlockInv t where
  reserved := by
    rw [ht]
    simpa [ReservedZero, putDecode, extract_putField_other] using h.reserved
  outcome := ho
  err := by
    rw [ht]
    simpa [ErrLegal] using h.err
  valid := hv
  rx := by
    rw [ht]
    simpa [RxLegal, State.rxMax] using h.rx
  buffers := by
    rw [ht]
    exact h.buffers
  tx := by
    rw [ht]
    simpa [TxLegal] using h.tx
  derived := hd

/-- "No data" leaves no field valid (spec/60_exceptions.md R181). -/
theorem BlockInv.giveNoData (h : BlockInv s) (c : Cause) : BlockInv (giveNoData c s) :=
  h.of_putDecode rfl (.inl ⟨stOutcome_putDecode _ _ _ _, c, stCause_putDecode _ _ _ _⟩)
    (.inl (stValid_putDecode _ _ _ _)) (.of_stValid (stValid_putDecode _ _ _ _) rfl)

/-- A Reading has two or six valid fields, and neither `S` nor `Q` (R28). -/
theorem BlockInv.giveReading (h : BlockInv s) (n : Word16) : BlockInv (giveReading n s) := by
  by_cases hn : n = 10
  · rw [hn, giveReading_ten]
    exact h.of_putDecode rfl (.inr ⟨.inr (stOutcome_putDecode _ _ _ _), stCause_putDecode _ _ _ _⟩)
      (.inr ⟨stOutcome_putDecode _ _ _ _, .inr (.inl (stValid_putDecode _ _ _ _))⟩)
      (.of_stValid (stValid_putDecode _ _ _ _) rfl)
  · rw [giveReading_three hn]
    exact h.of_putDecode rfl (.inr ⟨.inr (stOutcome_putDecode _ _ _ _), stCause_putDecode _ _ _ _⟩)
      (.inr ⟨stOutcome_putDecode _ _ _ _, .inl (stValid_putDecode _ _ _ _)⟩)
      (.of_stValid (stValid_putDecode _ _ _ _) rfl)

/-- DECODE notes its checksum and then gives "no data" or a Reading (spec/42_decode.md R138). -/
theorem BlockInv.decodeRx (h : BlockInv s) (n : Word16) : BlockInv (decodeRx n s) := by
  have hnote : BlockInv (noteChecksum n s) := by
    rw [noteChecksum_eq]
    exact h.of_unseen rfl
  rcases decodeRx_cases n s with ⟨c, -, he⟩ | ⟨-, he⟩
  · exact he ▸ hnote.giveNoData c
  · exact he ▸ hnote.giveReading n

/-- With `V`, `I` and `P` valid, the block holds a ten-register Reading, and DERIVE makes all eight bits valid. -/
theorem valid_of_inputsValid (h : ValidLegal s) (hin : inputsValid s = true) :
    stOutcome s.status = 1 ∧ stValid s.status ||| validDerived = 0xFF := by
  have hp : (stValid s.status).getLsbD 2 = true := by
    simp only [inputsValid, Bool.and_eq_true] at hin
    exact hin.2
  rcases h with h0 | ⟨ho, h3 | h10 | hall⟩
  · simp [h0] at hp
  · simp [h3] at hp
  · exact ⟨ho, by rw [h10]; rfl⟩
  · exact ⟨ho, by rw [hall]; rfl⟩

/-- DERIVE writes the derived quantities of the Reading it finds (spec/43_scale_derive.md R169). -/
theorem BlockInv.derivePower (h : BlockInv s) (hin : inputsValid s = true) : BlockInv (derivePower s) := by
  obtain ⟨hread, hall⟩ := valid_of_inputsValid h.valid hin
  have hst : (Machine.derivePower s).status = putDecode s.status (stOutcome s.status) (stCause s.status) 0xFF := by
    rw [← putField_valid_eq_putDecode, ← hall]
    rfl
  refine h.of_putDecode (o := stOutcome s.status) (c := stCause s.status) (m := 0xFF) ?_ ?_ ?_ fun _ => ?_
  · rw [← hst]
    rfl
  · simpa [OutcomeLegal, hst] using h.outcome
  · exact .inr ⟨by simp [hst, hread], .inr (.inr (by simp [hst]))⟩
  · have hS : (Machine.derivePower s).regS.toNat = apparent s := toNat_apparent s
    have hQ : (Machine.derivePower s).regQ.toNat = reactive s := toNat_reactive s
    rw [hS, hQ]
    exact ⟨rfl, reactive_spec s⟩

/-- The reset event puts the block's state at its reset values (spec/70_reset_and_hazards.md R210). -/
theorem BlockInv.resetBlock (s : State) : BlockInv (resetBlock s) :=
  (BlockInv.atReset s.rxSize).of_unseen rfl

/-- Taken or ignored, an effect that keeps the invariant gives a state with it. -/
theorem BlockInv.accept (h : BlockInv s) {effect : State → State} (heffect : BlockInv (effect s))
    (ht : accept s effect = .next t) : BlockInv t := by
  rcases accept_cases ht with ⟨-, rfl⟩ | ⟨-, rfl⟩
  · exact h
  · exact heffect

/-- The effect of each row. -/
theorem BlockInv.effectOf (h : BlockInv s) (i : Instr) : BlockInv (effectOf i s) := by
  cases i with
  | crcinit => exact h.of_unseen rfl
  | crcbyte b => exact h.of_unseen rfl
  | setaddr a => exact h.setCfg (extract_putField_other s.cfg 0 a 9 7 (by decide))
  | setcrcen e => exact h.setCfg (extract_putField_other s.cfg 8 e 9 7 (by decide))
  | buildreq start count =>
    rw [Machine.effectOf]
    split
    · exact h.refuse .badCount
    · exact h.buildFrame start count
  | rxclr => exact h.clearRx
  | rxpush b => exact h.pushRx b
  | decode n => exact h.decodeRx n
  | derive =>
    rw [Machine.effectOf]
    split
    · rename_i hin
      exact h.derivePower hin
    · exact h.refuse .noInput
  | requestFrame f => exact h.of_unseen rfl
  | responseN10 r => exact (h.loadRx _).decodeRx 10
  | responseN3 r => exact (h.loadRx _).decodeRx 3

/-- Every instruction keeps the invariant. -/
theorem BlockInv.exec (h : BlockInv s) {i : Instr} (ht : exec i s = .next t) : BlockInv t := by
  rcases exec_cases ht with rfl | rfl
  · exact h
  · exact h.effectOf i

/-- Every step keeps the invariant. -/
theorem BlockInv.step (h : BlockInv s) (ht : step s = .next t) : BlockInv t := by
  rcases step_cases ht with ⟨-, rfl⟩ | ⟨a, rest, -, hact⟩
  · exact h
  have hrest : BlockInv (s.setPending rest) := h.of_unseen rfl
  rcases hact with ⟨i, he⟩ | ⟨w, -, he⟩ | ⟨bytes, -, he⟩ | ⟨l, v, -, -, -, rfl⟩ | ⟨-, rfl⟩
  · exact hrest.exec he
  · exact hrest.accept (hrest.refuse .illCmd) he
  · exact hrest.accept (hrest.loadRx bytes) he
  · exact hrest.of_unseen rfl
  · exact BlockInv.resetBlock _

end Sys2Proof.Safety
end

section
/-! PROOFS. The statements about the state (spec/10_state.md). -/

namespace Sys2Proof

open Machine Safety

/-- Settles O52: the invariant under each effect a step can have, by the cases of a step. -/
theorem stepKeepsInvariant : Obligations.StepKeepsInvariant :=
  fun _ _ hs ht => hs.step ht

/-- Settles O51: the base case of the invariant. -/
theorem invariantHoldsAtReset : Obligations.InvariantHoldsAtReset :=
  BlockInv.atReset

/-- Settles O42: after an instruction the state is the old one outside the writes of its row, so a part that changed is one
of them. -/
theorem onlyTheListedCommandsWrite : Obligations.OnlyTheListedCommandsWrite := by
  intro i s t h
  rw [exec_writes h]
  cases i with
  | crcinit | crcbyte | setaddr | setcrcen | buildreq | rxclr | rxpush | decode | derive | requestFrame | responseN10
  | responseN3 => simp [withWrites]

/-- Settles O37: every value of the reset table; no location holds a value while `VALID`, `TXV` and `RXLEN` are 0. -/
theorem resetGivesSpecifiedState : Obligations.ResetGivesSpecifiedState := by
  intro s rest h
  refine ⟨resetBlock (s.setPending rest), by rw [step_of_pending h]; rfl, rfl, ?_, ?_, ?_, rfl, rfl, ?_, ?_, rfl⟩
  · rw [resetBlock_cfg]; rfl
  · rw [resetBlock_cfg]; rfl
  · rw [resetBlock_cfg]; rfl
  · rintro r (rfl | rfl | rfl | rfl | rfl | rfl | rfl | rfl) <;> exact readReg_of_stValid_zero rfl (by simp)
  · exact fun k => ⟨by simp [Loc.value], by simp [Loc.value]⟩

/-- Settles O39: the location's value is asked for after the action is taken off the host's list, which it does not depend
on. -/
theorem observationHasNoSideEffect : Obligations.ObservationHasNoSideEffect := by
  intro s l v rest h hexists hvalue
  rw [step_of_pending h, act, observe_of_value (by simpa using hexists) (by simpa using hvalue)]
  rfl

/-- Settles O40: the fixed registers by definition, a register of the Reading by its valid bit, a byte by its buffer's
condition. -/
theorem observableValues : Obligations.ObservableValues := fun s =>
  ⟨rfl, rfl, rfl, rfl, rfl, value_reg_of_validBit s .v 0 rfl, value_reg_of_validBit s .i 1 rfl,
    value_reg_of_validBit s .p 2 rfl, value_reg_of_validBit s .e 3 rfl, value_reg_of_validBit s .f 4 rfl,
    value_reg_of_validBit s .pf 5 rfl, value_reg_of_validBit s .s 6 rfl, value_reg_of_validBit s .q 7 rfl,
    fun _ => rfl, fun _ => rfl⟩

end Sys2Proof
end

section
/-! PROOFS. Words and frames as their bytes, and bytes put together to words and fields again (spec/30_encoding.md R70,
R72, R76, spec/20_memory.md R51). -/

namespace Sys2Proof.Machine

/-- Two neighbouring fields of a word put together are one field of it. -/
theorem append_extract {width : Nat} (w : BitVec width) (lo len len' : Nat) :
    w.extractLsb' (lo + len) len' ++ w.extractLsb' lo len = w.extractLsb' lo (len' + len) :=
  BitVec.extractLsb'_append_extractLsb'_eq_extractLsb' rfl

/-- A field of a word's low part is a field of the word. -/
theorem extract_extract_low {width n lo len : Nat} (w : BitVec width) (h : lo + len ≤ n) :
    (w.extractLsb' 0 n).extractLsb' lo len = w.extractLsb' lo len := by
  apply BitVec.eq_of_getLsbD_eq
  intro k hk
  simp [show lo + k < n by omega]

/-- A header is its three bytes put together. -/
theorem append_extract_header (h : BitVec 24) :
    h.extractLsb' 16 8 ++ h.extractLsb' 8 8 ++ h.extractLsb' 0 8 = h := by
  have join := append_extract h
  calc
    _ = h.extractLsb' 8 16 ++ h.extractLsb' 0 8 := congrArg (· ++ h.extractLsb' 0 8) (join 8 8 8)
    _ = h.extractLsb' 0 24 := join 0 8 16
    _ = h := BitVec.extractLsb'_eq_self

/-- The bytes of a field put together from two bytes (spec/20_memory.md R51). -/
@[simp] theorem wordBytes_append (hi lo : Byte) : wordBytes (hi ++ lo) = [hi, lo] := by
  rw [wordBytes, extract_append_high, extract_append_low]

/-- The bytes of a header put together from three bytes (spec/20_memory.md R58). -/
@[simp] theorem headerBytes_append (b2 b1 b0 : Byte) : headerBytes (b2 ++ b1 ++ b0) = [b2, b1, b0] := by
  have upper (lo : Nat) := extract_append_upper (b2 ++ b1) b0 lo 8
  simp only [headerBytes, List.cons.injEq, and_true]
  exact ⟨(upper 8).trans (extract_append_high b2 b1), (upper 0).trans (extract_append_low b2 b1),
    extract_append_low (b2 ++ b1) b0⟩

end Sys2Proof.Machine

namespace Sys2Proof

open Machine

/-- A command word is its five bytes put together (log 16). -/
theorem commandOfBytes_extract (w : CommandWord) :
    commandOfBytes (w.extractLsb' 32 8) (w.extractLsb' 24 8) (w.extractLsb' 16 8) (w.extractLsb' 8 8)
      (w.extractLsb' 0 8) = w := by
  have join (lo len : Nat) := append_extract w lo 8 len
  rw [commandOfBytes, join 24 8, join 16 16, join 8 24, join 0 32]
  exact BitVec.extractLsb'_eq_self

/-- The bytes of a command word put together from five bytes (log 16). -/
theorem commandBytes_commandOfBytes (b4 b3 b2 b1 b0 : Byte) :
    commandBytes (commandOfBytes b4 b3 b2 b1 b0) = [b4, b3, b2, b1, b0] := by
  have upper0 (lo : Nat) := extract_append_upper (b4 ++ b3 ++ b2 ++ b1) b0 lo 8
  have upper1 (lo : Nat) := extract_append_upper (b4 ++ b3 ++ b2) b1 lo 8
  have upper2 (lo : Nat) := extract_append_upper (b4 ++ b3) b2 lo 8
  simp only [commandBytes, List.cons.injEq, and_true]
  exact ⟨(upper0 24).trans ((upper1 16).trans ((upper2 8).trans (extract_append_high b4 b3))),
    (upper0 16).trans ((upper1 8).trans ((upper2 0).trans (extract_append_low b4 b3))),
    (upper0 8).trans ((upper1 0).trans (extract_append_low (b4 ++ b3) b2)),
    (upper0 0).trans (extract_append_low (b4 ++ b3 ++ b2) b1), extract_append_low (b4 ++ b3 ++ b2 ++ b1) b0⟩

/-- The bytes of a command word decode as the word does. -/
theorem decodeBytes_commandBytes (w : CommandWord) : decodeBytes (commandBytes w) = decodeCommand w :=
  congrArg decodeCommand (commandOfBytes_extract w)

/-- The bytes of a request frame decode to it (R70). -/
theorem decodeFrame_requestFrameBytes (f : RequestFrame) :
    decodeFrame (requestFrameBytes f) = .ok (.requestFrame f) := by
  simp [decodeFrame, requestFrameBytes, requestBody, wordBytes, append_extract_word]

/-- The bytes of a three-register response decode to it (R72). -/
theorem decodeFrame_responseN3Bytes (r : ResponseN3) : decodeFrame (responseN3Bytes r) = .ok (.responseN3 r) := by
  simp [decodeFrame, responseN3Bytes, headerBytes, wordBytes, append_extract_word, append_extract_header]

/-- The bytes of a ten-register response decode to it (R72). -/
theorem decodeFrame_responseN10Bytes (r : ResponseN10) : decodeFrame (responseN10Bytes r) = .ok (.responseN10 r) := by
  simp [decodeFrame, responseN10Bytes, headerBytes, wordBytes, append_extract_word, append_extract_header]

/-- A frame that decodes to an instruction is the encoding of it (R70, R72). -/
theorem encode_of_decodeFrame {bytes : List Byte} {i : Instr} (h : decodeFrame bytes = .ok i) : encode i = bytes := by
  unfold decodeFrame at h
  split at h
  · split at h
    · next hfunc =>
      cases h
      simp [encode, requestFrameBytes, requestBody, hfunc]
    · cases h
  · cases h
    simp [encode, responseN3Bytes]
  · cases h
    simp [encode, responseN10Bytes]
  · cases h

end Sys2Proof
end

section
/-! PROOFS. The opcode map (spec/30_encoding.md R77): what a row fixes, that no word fits two rows, and that a word is
decoded by the row it fits. -/

namespace Sys2Proof

open Machine Statements

/-- A row that fixes `op` and every bit of `arg` above an operand of `n` bits (R77). -/
def fieldRow (op : Byte) (n : Nat) (meaning : BitVec n → Instr) : CommandRow :=
  ⟨commandWord op 0, BitVec.allOnes 40 <<< n, fun w => meaning (w.extractLsb' 0 n)⟩

/-- The meaning of BUILDREQ's operand: `start` in its upper half and `count` in its lower (R77). -/
def buildreqOf (v : Word32) : Instr := .buildreq (v.extractLsb' 16 16) (v.extractLsb' 0 16)

/-- BUILDREQ of `start` and `count` is the meaning of the two put together. -/
theorem buildreqOf_append (start count : Word16) : buildreqOf (start ++ count) = .buildreq start count := by
  rw [buildreqOf, extract_append_high, extract_append_low]

/-- The encoder writes BUILDREQ's operand as it stands (R77). -/
theorem encode_buildreqOf (v : Word32) : encode (buildreqOf v) = commandBytes (commandWord 0x12 (v.setWidth 32)) := by
  have hv : v.extractLsb' 16 16 ++ v.extractLsb' 0 16 = v :=
    (append_extract v 0 16 16).trans BitVec.extractLsb'_eq_self
  rw [buildreqOf, encode, hv, BitVec.setWidth_eq]

/-- The map, each row by its `op`, the width of its operand and what the operand means. -/
theorem commandRows_eq_fieldRows : commandRows =
    [fieldRow 0x01 0 fun _ => .crcinit, fieldRow 0x02 8 .crcbyte, fieldRow 0x10 8 .setaddr, fieldRow 0x11 1 .setcrcen,
      fieldRow 0x12 32 buildreqOf, fieldRow 0x20 0 fun _ => .rxclr, fieldRow 0x21 8 .rxpush, fieldRow 0x22 16 .decode,
      fieldRow 0x30 0 fun _ => .derive] := by
  have hbuildreq (w : CommandWord) : buildreqOf (w.extractLsb' 0 32) = .buildreq (highField w) (lowField w) := by
    rw [buildreqOf, extract_extract_low w (by decide), extract_extract_low w (by decide)]
    rfl
  simp only [fieldRow, hbuildreq]
  rfl

/-- The bits of a command word: `arg` below bit 32, `op` from there (R76). -/
theorem getLsbD_commandWord (op : Byte) (arg : Word32) (k : Nat) :
    (commandWord op arg).getLsbD k = if k < 32 then arg.getLsbD k else op.getLsbD (k - 32) :=
  BitVec.getLsbD_append

/-- The operand is the low bits of its command word. -/
theorem extract_commandWord {n : Nat} (hn : n ≤ 32) (op : Byte) (v : BitVec n) :
    (commandWord op (v.setWidth 32)).extractLsb' 0 n = v := by
  apply BitVec.eq_of_getLsbD_eq
  intro k hk
  simp [getLsbD_commandWord, hk, hk.trans_le hn]

/-- A word fits a row exactly when it is `op` and the operand, zero-extended to `arg` (R77). -/
theorem fieldRow_selects_iff {n : Nat} (hn : n ≤ 32) (op : Byte) (meaning : BitVec n → Instr) (w : CommandWord) :
    (fieldRow op n meaning).selects w = true ↔ w = commandWord op ((w.extractLsb' 0 n).setWidth 32) := by
  rw [CommandRow.selects, beq_iff_eq, BitVec.eq_of_getLsbD_eq_iff, BitVec.eq_of_getLsbD_eq_iff]
  refine forall₂_congr fun k hk => ?_
  simp only [fieldRow, getLsbD_commandWord, BitVec.getLsbD_and, BitVec.getLsbD_shiftLeft, BitVec.getLsbD_allOnes,
    BitVec.getLsbD_setWidth, BitVec.getLsbD_extractLsb', hk]
  by_cases hop : k < 32
  · by_cases hoperand : k < n
    · simp [hop, hoperand]
    · simp [hop, hoperand, show k - n < 40 by omega]
  · simp [hop, show ¬ k < n by omega, show k - n < 40 by omega]

/-- Rows whose fixed bits differ where both fix a bit have no word in common. -/
theorem not_selects_both {a b : CommandRow} (h : a.fixed &&& b.mask ≠ b.fixed &&& a.mask) (w : CommandWord) :
    ¬(a.selects w = true ∧ b.selects w = true) := by
  simp only [CommandRow.selects, beq_iff_eq]
  rintro ⟨ha, hb⟩
  apply h
  rw [← ha, ← hb, BitVec.and_assoc, BitVec.and_assoc, BitVec.and_comm a.mask]

/-- No word fits two rows of the map (R77). -/
theorem commandRows_pairwise :
    commandRows.Pairwise (fun a b => ∀ w : CommandWord, ¬(a.selects w = true ∧ b.selects w = true)) := by
  have hfixed : commandRows.Pairwise (fun a b => a.fixed &&& b.mask ≠ b.fixed &&& a.mask) := by decide
  exact hfixed.imp not_selects_both

/-- A word is decoded by the row it fits: every row before it does not fit. -/
theorem decodeCommand_of_selects {w : CommandWord} {r : CommandRow} (hr : r ∈ commandRows) (hw : r.selects w = true) :
    decodeCommand w = .ok (r.build w) := by
  obtain ⟨before, after, hrows⟩ := List.append_of_mem hr
  have hpair := commandRows_pairwise
  rw [hrows, List.pairwise_append] at hpair
  obtain ⟨-, -, hbefore⟩ := hpair
  have hfind : commandRows.find? (CommandRow.selects w) = some r := by
    refine List.find?_eq_some_iff_append.2 ⟨hw, before, after, hrows, fun a ha => ?_⟩
    have hboth := hbefore a ha r List.mem_cons_self w
    simpa [hw] using hboth
  rw [decodeCommand, hfind]

/-- The words that are an instruction: those a row of the map selects, with that row's meaning (R77, R78). -/
theorem decodeCommand_eq_ok_iff {w : CommandWord} {i : Instr} :
    decodeCommand w = .ok i ↔ ∃ r ∈ commandRows, r.selects w = true ∧ r.build w = i := by
  constructor
  · intro h
    unfold decodeCommand at h
    split at h
    · next r hfind =>
      cases h
      exact ⟨r, List.mem_of_find?_eq_some hfind, List.find?_some hfind, rfl⟩
    · cases h
  · rintro ⟨r, hr, hw, rfl⟩
    exact decodeCommand_of_selects hr hw

/-- What a refusal writes (spec/60_exceptions.md R184). -/
theorem refused_refuse (s : State) (code : RefuseCode) : Refused s (refuse code s) code.code :=
  ⟨rfl, stErr_putRefuse _ _, stErrCode_putRefuse _ _, getLsbD_putRefuse_other _ _⟩

/-- A word that no row selects is refused with ILLCMD by a block that accepts commands (R78). -/
theorem step_unmapped_refused {w : CommandWord} (hw : ¬∃ r ∈ commandRows, r.selects w = true) {s : State}
    {rest : List HostAction} (hp : s.pending = .command w :: rest) (hs : s.halted = false) :
    ∃ t, step s = .next t ∧ Refused { s with pending := rest } t 1 := by
  have hact : act (.command w) (s.setPending rest) = illegalCommand (s.setPending rest) := by
    cases hd : decodeCommand w with
    | ok i =>
      obtain ⟨r, hr, hselects, -⟩ := decodeCommand_eq_ok_iff.1 hd
      exact absurd ⟨r, hr, hselects⟩ hw
    | error e => rw [act, hd]
  refine ⟨_, ?_, refused_refuse (s.setPending rest) .illCmd⟩
  rw [step_of_pending hp, hact]
  exact accept_of_ready (s := s.setPending rest) hs _

/-- Every row of the map fixes `op` and the bits above its operand, and the encoder writes its instructions so (R77). -/
theorem exists_fieldRow_of_mem {r : CommandRow} (hr : r ∈ commandRows) :
    ∃ (op : Byte) (n : Nat) (meaning : BitVec n → Instr), n ≤ 32 ∧ r = fieldRow op n meaning ∧
      ∀ v, encode (meaning v) = commandBytes (commandWord op (v.setWidth 32)) := by
  simp only [commandRows_eq_fieldRows, List.mem_cons, List.not_mem_nil, or_false] at hr
  have noOperand {op : Byte} {i : Instr} (h : encode i = commandBytes (commandWord op 0)) (v : BitVec 0) :
      encode i = commandBytes (commandWord op (v.setWidth 32)) := by
    rw [h, BitVec.of_length_zero (x := v)]
    rfl
  rcases hr with rfl | rfl | rfl | rfl | rfl | rfl | rfl | rfl | rfl
  · exact ⟨0x01, 0, _, by decide, rfl, noOperand rfl⟩
  · exact ⟨0x02, 8, .crcbyte, by decide, rfl, fun _ => rfl⟩
  · exact ⟨0x10, 8, .setaddr, by decide, rfl, fun _ => rfl⟩
  · exact ⟨0x11, 1, .setcrcen, by decide, rfl, fun _ => rfl⟩
  · exact ⟨0x12, 32, buildreqOf, by decide, rfl, encode_buildreqOf⟩
  · exact ⟨0x20, 0, _, by decide, rfl, noOperand rfl⟩
  · exact ⟨0x21, 8, .rxpush, by decide, rfl, fun _ => rfl⟩
  · exact ⟨0x22, 16, .decode, by decide, rfl, fun _ => rfl⟩
  · exact ⟨0x30, 0, _, by decide, rfl, noOperand rfl⟩

/-- A word that a row selects is the encoding of what it decodes to. -/
theorem encode_of_decodeCommand {w : CommandWord} {i : Instr} (h : decodeCommand w = .ok i) :
    encode i = commandBytes w := by
  obtain ⟨r, hr, hw, rfl⟩ := decodeCommand_eq_ok_iff.1 h
  obtain ⟨op, n, meaning, hn, rfl, hencode⟩ := exists_fieldRow_of_mem hr
  exact (hencode _).trans (congrArg commandBytes ((fieldRow_selects_iff hn op meaning w).1 hw).symm)

/-- The bytes of a row's `op` and an operand decode to the row's instruction with that operand (R77). -/
theorem decodeBytes_commandWord {op : Byte} {n : Nat} {meaning : BitVec n → Instr} (v : BitVec n)
    (hr : fieldRow op n meaning ∈ commandRows) (hn : n ≤ 32) :
    decodeBytes (commandBytes (commandWord op (v.setWidth 32))) = .ok (meaning v) := by
  have hv := extract_commandWord hn op v
  have hw := (fieldRow_selects_iff hn op meaning (commandWord op (v.setWidth 32))).2 (by rw [hv])
  rw [decodeBytes_commandBytes, decodeCommand_of_selects hr hw]
  exact congrArg (fun u => Except.ok (meaning u)) hv

end Sys2Proof
end

section
/-! PROOFS. Commands issued one after another: the pseudo-commands CRC16 and RXLOAD (spec/30_encoding.md R81). -/

namespace Sys2Proof.Machine

@[simp] theorem halted_clearRx (s : State) : (clearRx s).halted = s.halted :=
  stErr_putBit s.status 6 false (by decide)

@[simp] theorem halted_pushRx (b : Byte) (s : State) : (pushRx b s).halted = s.halted := by
  rcases pushRx_cases b s with ⟨-, h⟩ | ⟨-, h⟩
  · rw [h]; rfl
  · rw [h]; exact stErr_putBit s.status 6 true (by decide)

@[simp] theorem halted_loadRx (bytes : List Byte) (s : State) : (loadRx bytes s).halted = s.halted :=
  loadRx_induction (motive := fun u => u.halted = s.halted) (halted_clearRx s)
    (fun b u hu => (halted_pushRx b u).trans hu) bytes

/-- A command that ends hands its state to those after it. -/
theorem execAll_cons {i : Instr} {s t : State} (h : exec i s = .next t) (is : List Instr) :
    execAll (i :: is) s = execAll is t := by
  rw [execAll, h]

/-- Commands that end hand their state to those after them. -/
theorem execAll_append {is js : List Instr} {s t : State} (h : execAll is s = .next t) :
    execAll (is ++ js) s = execAll js t := by
  induction is generalizing s with
  | nil => cases h; rfl
  | cons i is ih =>
    rw [execAll] at h
    split at h
    · next u hu =>
      rw [List.cons_append, execAll_cons hu]
      exact ih h
    · cases h
    · cases h

/-- One command per byte, each with an effect after which the block still accepts commands: the effects in their order. -/
theorem execAll_map {command : Byte → Instr} {effect : Byte → State → State}
    (hexec : ∀ b s, s.halted = false → exec (command b) s = .next (effect b s))
    (hkeep : ∀ b s, (effect b s).halted = s.halted) (bytes : List Byte) {s : State} (h : s.halted = false) :
    execAll (bytes.map command) s = .next (bytes.foldl (fun u b => effect b u) s) := by
  induction bytes generalizing s with
  | nil => rfl
  | cons b bytes ih =>
    rw [List.map_cons, execAll_cons (hexec b s h)]
    exact ih ((hkeep b s).trans h)

/-- CRCBYTEs fold their bytes into `CRC` (spec/40_crc.md R102, R104). -/
theorem foldl_setCrc (bytes : List Byte) (s : State) (a : Word16) :
    bytes.foldl (fun u b => u.setCrc (crcByte u.crc b)) (s.setCrc a) = s.setCrc (crcFold a bytes) :=
  List.foldl_hom s.setCrc fun _ _ => rfl

/-- The pseudo-command CRC16 leaves the checksum of its bytes (R81). -/
theorem execAll_pseudoCrc16 (b0 : Byte) (bytes : List Byte) {s : State} (h : s.halted = false) :
    execAll (pseudoCrc16 b0 bytes) s = .next (s.setCrc (crcFold crcInit (b0 :: bytes))) := by
  rw [pseudoCrc16, execAll_cons (exec_crcinit h),
    execAll_map (fun b _ hu => exec_crcbyte hu b) (fun _ _ => rfl) _ (s := s.setCrc crcInit) h, foldl_setCrc]

/-- The pseudo-command RXLOAD leaves what `loadRx` gives (R81). -/
theorem execAll_pseudoRxload (bytes : List Byte) {s : State} (h : s.halted = false) :
    execAll (pseudoRxload bytes) s = .next (loadRx bytes s) := by
  rw [pseudoRxload, execAll_cons (exec_rxclr h)]
  exact execAll_map (fun b _ hu => exec_rxpush hu b) halted_pushRx bytes ((halted_clearRx s).trans h)

end Sys2Proof.Machine
end

section
/-! PROOFS. What RXLOAD leaves, in one equation (spec/30_encoding.md R81, spec/42_decode.md R136, R137). -/

namespace Sys2Proof.Machine

/-- Bytes written in a row, the last of them at the end. -/
theorem memWrite_concat (m : Memory) (a : Nat) (bs : List Byte) (b : Byte) :
    memWrite m a (bs ++ [b]) = Memory.write (memWrite m a bs) (a + bs.length) b := by
  induction bs generalizing m a with
  | nil => rfl
  | cons c bs ih =>
    rw [List.cons_append, memWrite, ih, memWrite, List.length_cons, Nat.add_right_comm, Nat.add_assoc]

/-- One more byte loaded is one more RXPUSH. -/
theorem loadRx_concat (bytes : List Byte) (b : Byte) (s : State) :
    loadRx (bytes ++ [b]) s = pushRx b (loadRx bytes s) := by
  rw [loadRx, List.foldl_append]
  rfl

/-- `s` with `bytes` in `RX` from index 0, `RXLEN` their number, and `RXOVF` as given. -/
def withRx (bytes : List Byte) (overflow : Bool) (s : State) : State :=
  ((s.setRx (memWrite s.rx 0 bytes)).setRxlen (BitVec.ofNat 8 bytes.length)).setStatus (putBit s.status 6 overflow)

section
variable {bytes : List Byte} {overflow : Bool} {s : State}

/-- The number of bytes does not wrap in `RXLEN`. -/
theorem toNat_rxlen_withRx (h : bytes.length ≤ s.rxMax) : (withRx bytes overflow s).rxlen.toNat = bytes.length := by
  have hmax := State.rxMax_le s
  exact Nat.mod_eq_of_lt (by omega)

/-- The bytes received are those put there. -/
theorem rxBytes_withRx (hwf : Memory.wf s.rx = true) (h : bytes.length ≤ s.rxMax) :
    rxBytes (withRx bytes overflow s) = bytes := by
  rw [rxBytes, toNat_rxlen_withRx h]
  exact memRead_memWrite hwf 0 bytes

/-- A byte pushed while there is room comes after the others (R137). -/
theorem pushRx_withRx_of_lt (b : Byte) (h : bytes.length < s.rxMax) :
    pushRx b (withRx bytes overflow s) = withRx (bytes ++ [b]) overflow s := by
  have hlen := toNat_rxlen_withRx (overflow := overflow) h.le
  have hlt : (withRx bytes overflow s).rxlen.toNat < (withRx bytes overflow s).rxMax := hlen.trans_lt h
  rw [pushRx, if_pos hlt, hlen, withRx, withRx, memWrite_concat, Nat.zero_add, List.length_append, BitVec.ofNat_add]
  rfl

/-- A byte pushed into a full buffer is lost, and the overflow recorded (R137). -/
theorem pushRx_withRx_of_eq (b : Byte) (h : bytes.length = s.rxMax) :
    pushRx b (withRx bytes overflow s) = withRx bytes true s := by
  have hlen := toNat_rxlen_withRx (overflow := overflow) h.le
  have hfull : ¬ (withRx bytes overflow s).rxlen.toNat < (withRx bytes overflow s).rxMax := (hlen.trans h).not_lt
  have hovf : putBit (putBit s.status 6 overflow) 6 true = putBit s.status 6 true := putField_putField _ _ _ _
  rw [pushRx, if_neg hfull, withRx, withRx, ← hovf]
  rfl

end

/-- RXLOAD leaves the bytes that fit and records whether there were more. -/
theorem loadRx_eq_withRx (bytes : List Byte) (s : State) :
    loadRx bytes s = withRx (bytes.take s.rxMax) (decide (s.rxMax < bytes.length)) s := by
  induction bytes using List.reverseRecOn with
  | nil =>
    rw [List.take_nil, List.length_nil, decide_eq_false (Nat.not_lt_zero s.rxMax)]
    rfl
  | append_singleton bytes b ih =>
    rw [loadRx_concat, ih]
    rcases lt_or_ge bytes.length s.rxMax with hlt | hge
    · have hall : bytes.take s.rxMax = bytes := List.take_of_length_le hlt.le
      have hall' : (bytes ++ [b]).take s.rxMax = bytes ++ [b] := List.take_of_length_le (by simpa using hlt)
      have hfits : ¬ s.rxMax < (bytes ++ [b]).length := by simpa using hlt
      rw [hall, hall', decide_eq_false hlt.not_gt, decide_eq_false hfits, pushRx_withRx_of_lt b hlt]
    · have hsame : (bytes ++ [b]).take s.rxMax = bytes.take s.rxMax := List.take_append_of_le_length hge
      have hmore : s.rxMax < (bytes ++ [b]).length := by simpa using Nat.lt_succ_of_le hge
      rw [hsame, decide_eq_true hmore, pushRx_withRx_of_eq b (List.length_take_of_le hge)]

section
variable (bytes : List Byte) (s : State)

/-- After RXLOAD the bytes received are those that fit. -/
theorem rxBytes_loadRx (hwf : Memory.wf s.rx = true) : rxBytes (loadRx bytes s) = bytes.take s.rxMax := by
  rw [loadRx_eq_withRx]
  exact rxBytes_withRx hwf (List.length_take_le _ _)

/-- RXLOAD writes `RXOVF`, and no other bit of `STATUS`. -/
theorem status_loadRx : (loadRx bytes s).status = putBit s.status 6 (decide (s.rxMax < bytes.length)) := by
  rw [loadRx_eq_withRx]
  rfl

/-- RXLOAD records an overflow exactly when there were more bytes than fit. -/
theorem stRxOvf_loadRx : stRxOvf (loadRx bytes s).status = decide (s.rxMax < bytes.length) := by
  rw [status_loadRx, stRxOvf_putBit_same]

@[simp] theorem cfg_loadRx : (loadRx bytes s).cfg = s.cfg := by
  rw [loadRx_writes]

/-- RXLOAD leaves the bytes beyond its own where they are (log 11). -/
theorem read_loadRx_of_ge {k : Nat} (hk : bytes.length ≤ k) :
    Memory.read (loadRx bytes s).rx k = Memory.read s.rx k := by
  rw [loadRx_eq_withRx]
  refine read_memWrite_other s.rx 0 _ (.inr ?_)
  rw [Nat.zero_add, List.length_take]
  omega

end

end Sys2Proof.Machine
end

section
/-! PROOFS. DECODE and the decoder as a pure function (spec/42_decode.md R138, R146). -/

namespace Sys2Proof.Machine

/-- The check of a non-empty body followed by two bytes compares them with the body's checksum (spec/40_crc.md R105). -/
theorem crcOk_append_pair {body : List Byte} (hne : body ≠ []) (lo hi : Byte) :
    crcOk (body ++ [lo, hi]) = (lo == crcLow (crcFold crcInit body) && hi == crcHigh (crcFold crcInit body)) := by
  have hlen : (body ++ [lo, hi]).length - 2 = body.length := by simp
  have hpos : 0 < body.length := List.length_pos_iff.2 hne
  have hthree : 3 ≤ (body ++ [lo, hi]).length := by simp; omega
  rw [crcOk, hlen, List.take_left, List.drop_left, crc16_of_ne_nil hne, decide_eq_true hthree]
  simp [trailer]

/-- DECODE's trailer test is the check of all bytes received (spec/20_memory.md R59). -/
theorem trailerMatches_eq_crcOk {s : State} (h : 3 ≤ s.rxlen.toNat) : trailerMatches s = crcOk (rxBytes s) := by
  obtain ⟨k, hk⟩ : ∃ k, s.rxlen.toNat = k + 2 := ⟨s.rxlen.toNat - 2, by omega⟩
  have hne : memRead s.rx 0 k ≠ [] := List.length_pos_iff.1 (by rw [length_memRead]; omega)
  have hbytes : rxBytes s = memRead s.rx 0 k ++ [Memory.read s.rx k, Memory.read s.rx (k + 1)] := by
    rw [rxBytes, hk, memRead_succ, memRead_succ]
    simp
  have hsum : rxChecksum s = crcFold crcInit (memRead s.rx 0 k) := by
    rw [rxChecksum, hk, Nat.add_sub_cancel]
  rw [hbytes, crcOk_append_pair hne, trailerMatches, hsum, hk]
  rfl

@[simp] theorem rxBytes_noteChecksum (n : Word16) (s : State) : rxBytes (noteChecksum n s) = rxBytes s := by
  rw [noteChecksum_eq]
  rfl

/-- "No data" is observed with its cause (spec/60_exceptions.md R181). -/
theorem outcomeOf_giveNoData (c : Cause) (s : State) : outcomeOf (giveNoData c s) = some (.noData c) := by
  have hcode : Cause.ofCode c.code = some c := by cases c <;> rfl
  simp [outcomeOf, giveNoData, outcomeReading, outcomeNoData, hcode]

/-- A ten-register Reading is observed with its six fields (R145). -/
theorem outcomeOf_giveReading_ten (s : State) :
    outcomeOf (giveReading 10 s) = some (.reading (readingTen (rxBytes s))) := by
  rw [giveReading_ten]
  simp [outcomeOf, readingOf, ifValid, Reg.valid, Reg.validBit, validTen, readingTen]

/-- A Reading of voltage and current is observed with these two (R145). -/
theorem outcomeOf_giveReading_three {n : Word16} (hn : n ≠ 10) (s : State) :
    outcomeOf (giveReading n s) = some (.reading (readingThree (rxBytes s))) := by
  rw [giveReading_three hn]
  simp [outcomeOf, readingOf, ifValid, Reg.valid, Reg.validBit, validThree, readingThree]

/-- A DECODE that finds a cause is observed as "no data". -/
theorem outcomeOf_decodeRx_of_some {n : Word16} {s : State} {c : Cause} (h : decodeCause n s = some c) :
    outcomeOf (decodeRx n s) = some (.noData c) := by
  rw [decodeRx, h]
  exact outcomeOf_giveNoData c _

/-- A DECODE that finds no cause is observed as the Reading of the bytes received. -/
theorem outcomeOf_decodeRx_of_none {n : Word16} {s : State} (h : decodeCause n s = none) :
    outcomeOf (decodeRx n s) =
      some (.reading (if n = 10 then readingTen (rxBytes s) else readingThree (rxBytes s))) := by
  rw [decodeRx, h]
  by_cases hn : n = 10
  · subst hn
    exact (outcomeOf_giveReading_ten _).trans (by rw [rxBytes_noteChecksum, if_pos rfl])
  · exact (outcomeOf_giveReading_three hn _).trans (by rw [rxBytes_noteChecksum, if_neg hn])

/-- A cause found before the checksum is the cause of DECODE. -/
theorem decodeCause_of_early {n : Word16} {s : State} {c : Cause} (h : earlyCause n s = some c) :
    decodeCause n s = some c := by
  rw [decodeCause, h]

/-- With nothing found before the checksum, DECODE fails exactly when the policy asks for the check and the trailer is
wrong. -/
theorem decodeCause_of_early_none {n : Word16} {s : State} (h : earlyCause n s = none) :
    decodeCause n s = if cfgCrcEn s.cfg && !trailerMatches s then some .crcFail else none := by
  rw [decodeCause, h]

/-- DECODE agrees with the pure decoder on the bytes received, unless they overran the buffer (R146). -/
theorem outcomeOf_decodeRx {n : Word16} {s : State} (hovf : stRxOvf s.status = false) :
    outcomeOf (decodeRx n s) = some (decodeResponse (rxBytes s) n (cfgCrcEn s.cfg)) := by
  have hlen : (rxBytes s).length = s.rxlen.toNat := length_memRead _ _ _
  rcases earlyCause_cases n s with ⟨h3, h10, he⟩ | ⟨-, ho, -⟩ | ⟨hn, -, hshort, he⟩ | ⟨hn, -, hlong, he⟩
  · rw [outcomeOf_decodeRx_of_some (decodeCause_of_early he), decodeResponse, if_pos ⟨h3, h10⟩]
  · rw [hovf] at ho
    cases ho
  · have hn' : ¬(n ≠ 3 ∧ n ≠ 10) := fun h => hn.elim h.1 h.2
    rw [outcomeOf_decodeRx_of_some (decodeCause_of_early he), decodeResponse, if_neg hn', hlen, if_pos hshort]
  · have hn' : ¬(n ≠ 3 ∧ n ≠ 10) := fun h => hn.elim h.1 h.2
    have hcause := decodeCause_of_early_none he
    rw [trailerMatches_eq_crcOk (by unfold minLen at hlong; omega)] at hcause
    rw [decodeResponse, if_neg hn', hlen, if_neg hlong.not_gt]
    by_cases hfail : cfgCrcEn s.cfg = true ∧ crcOk (rxBytes s) = false
    · rw [if_pos hfail, outcomeOf_decodeRx_of_some (by simpa [hfail] using hcause)]
    · rw [if_neg hfail, outcomeOf_decodeRx_of_none (by simpa [hfail] using hcause)]
      rcases hn with rfl | rfl <;> rfl

/-- With an admitted count, an overflow recorded is "no data" for an overrun (spec/60_exceptions.md R181). -/
theorem outcomeOf_decodeRx_of_overrun {n : Word16} {s : State} (hn : n = 3 ∨ n = 10) (hovf : stRxOvf s.status = true) :
    outcomeOf (decodeRx n s) = some (.noData .overrun) := by
  refine outcomeOf_decodeRx_of_some (decodeCause_of_early ?_)
  rcases hn with rfl | rfl <;> simp [earlyCause, countAdmitted, hovf]

end Sys2Proof.Machine
end

section
/-! PROOFS. The request BUILDREQ leaves in `TX`, as a frame on the wire (spec/41_request.md R120, R123, spec/30_encoding.md
R70). -/

namespace Sys2Proof.Machine

/-- The request frame with these fields and its right trailer (spec/41_request.md R120). -/
def requestOf (addr : Byte) (start count : Word16) : RequestFrame :=
  ⟨addr, start, count, crcLow (requestCrc addr start count), crcHigh (requestCrc addr start count)⟩

/-- Its bytes are those `build_request` makes. -/
theorem requestFrameBytes_requestOf (addr : Byte) (start count : Word16) :
    requestFrameBytes (requestOf addr start count) = buildRequest addr start count := rfl

/-- It is a request of the protocol if its count is at least 1. -/
theorem wellFormed_requestOf (addr : Byte) (start : Word16) {count : Word16} (h : count ≠ 0) :
    (Instr.requestFrame (requestOf addr start count)).wellFormed = true := by
  simpa [Instr.wellFormed, RequestFrame.countOk, RequestFrame.trailerOk, requestOf] using h

/-- BUILDREQ leaves the request in `TX` (spec/41_request.md R120, R123). -/
theorem memRead_buildFrame {s : State} (hwf : Memory.wf s.tx = true) (start count : Word16) :
    memRead (buildFrame start count s).tx 0 8 = buildRequest (cfgAddr s.cfg) start count :=
  memRead_memWrite hwf 0 (buildRequest (cfgAddr s.cfg) start count)

end Sys2Proof.Machine
end

section
/-! PROOFS. The statements about the encoding and the pseudo-commands (spec/30_encoding.md). -/

namespace Sys2Proof

open Machine Statements

/-- Settles O46: a command is some row's meaning of its operand, and its word is that row's; a wire frame is put
together from the bytes its fields were cut into. -/
theorem decodeOfEncode : Obligations.DecodeOfEncode := by
  have row := @decodeBytes_commandWord
  rw [commandRows_eq_fieldRows] at row
  intro i
  cases i with
  | crcinit => exact row (meaning := fun _ => .crcinit) 0#0 (by simp) (by decide)
  | crcbyte b => exact row (meaning := .crcbyte) b (by simp) (by decide)
  | setaddr a => exact row (meaning := .setaddr) a (by simp) (by decide)
  | setcrcen e => exact row (meaning := .setcrcen) e (by simp) (by decide)
  | buildreq start count =>
    rw [← buildreqOf_append, encode_buildreqOf]
    exact row (meaning := buildreqOf) (start ++ count) (by simp) (by decide)
  | rxclr => exact row (meaning := fun _ => .rxclr) 0#0 (by simp) (by decide)
  | rxpush b => exact row (meaning := .rxpush) b (by simp) (by decide)
  | decode n => exact row (meaning := .decode) n (by simp) (by decide)
  | derive => exact row (meaning := fun _ => .derive) 0#0 (by simp) (by decide)
  | requestFrame f => exact decodeFrame_requestFrameBytes f
  | responseN10 r => exact decodeFrame_responseN10Bytes r
  | responseN3 r => exact decodeFrame_responseN3Bytes r

/-- Settles O7: CRCINIT starts the checksum, and each CRCBYTE folds one more byte into it. -/
theorem pseudoCrc16ComputesChecksum : Obligations.PseudoCrc16ComputesChecksum :=
  fun _ b0 bytes h => ⟨_, crc16_cons b0 bytes, execAll_pseudoCrc16 b0 bytes h⟩

/-- Settles O13: the eight bytes in `TX` are those of the request frame with the fields given and its right trailer. -/
theorem builtFrameIsRequestFrame : Obligations.BuiltFrameIsRequestFrame := by
  intro s start count h hwf hcount
  refine ⟨_, requestOf (cfgAddr s.cfg) start count, exec_buildreq h hcount, ?_, rfl, rfl, rfl,
    wellFormed_requestOf _ _ hcount⟩
  rw [memRead_buildFrame hwf, ← requestFrameBytes_requestOf, decodeFrame_requestFrameBytes]

/-- Settles O25: RXLOAD is one RXCLR and an RXPUSH per byte, and what these leave is one equation, `loadRx_eq_withRx`. -/
theorem rxloadFillsBuffer : Obligations.RxloadFillsBuffer := by
  intro s bytes h hwf
  refine ⟨loadRx bytes s, execAll_pseudoRxload bytes h, rxBytes_loadRx bytes s hwf, ?_, ?_,
    fun k hk => read_loadRx_of_ge bytes s hk, ?_⟩
  · have hovf := stRxOvf_loadRx bytes s
    rw [stRxOvf] at hovf
    rw [hovf, decide_eq_true_iff]
  · exact fun k hk => by rw [status_loadRx, getLsbD_putBit_other _ _ _ hk]
  · exact loadRx_writes bytes s

/-- Settles O26: DECODE agrees with the pure decoder on the bytes received, which after RXLOAD are the list if it fits; an
overrun recorded comes before every other cause but the count. -/
theorem loadedResponseIsDecoded : Obligations.LoadedResponseIsDecoded := by
  intro s bytes n h hwf
  have hready : (loadRx bytes s).halted = false := (halted_loadRx bytes s).trans h
  have hrun : execAll (pseudoRxload bytes ++ [.decode n]) s = .next (decodeRx n (loadRx bytes s)) := by
    rw [execAll_append (execAll_pseudoRxload bytes h), execAll_cons (exec_decode hready n), execAll]
  refine ⟨_, hrun, fun hfits => ?_, fun hmore hn => ?_⟩
  · have hovf : stRxOvf (loadRx bytes s).status = false := by simpa [stRxOvf_loadRx] using hfits
    rw [outcomeOf_decodeRx hovf, rxBytes_loadRx bytes s hwf, List.take_of_length_le hfits, cfg_loadRx]
    rfl
  · exact outcomeOf_decodeRx_of_overrun hn (by simpa [stRxOvf_loadRx] using hmore)

/-- Settles O34: the printed pairs are those of the decoder's rows, and a word that none of them selects is refused. -/
theorem unmappedWordsAreRefused : Obligations.UnmappedWordsAreRefused := by
  intro w
  have hmap : opcodeMap = commandRows.map fun r => (r.fixed, r.mask) := rfl
  have hmapped : (∃ row ∈ opcodeMap, w &&& row.2 = row.1) ↔ ∃ r ∈ commandRows, r.selects w = true := by
    simp [hmap, CommandRow.selects]
  constructor
  · simp [hmapped, decodeCommand_eq_ok_iff]
  · intro hunmapped s rest
    exact step_unmapped_refused fun hw => by
      obtain ⟨row, hrow, hfits⟩ := hmapped.2 hw
      exact hunmapped row hrow hfits

/-- Settles O47: five bytes are a word that a row selects, and any other number of bytes the frame of a layout. -/
theorem encodeOfDecode : Obligations.EncodeOfDecode := by
  intro bytes i h
  unfold decodeBytes at h
  split at h
  · rw [encode_of_decodeCommand h, commandBytes_commandOfBytes]
  · exact encode_of_decodeFrame h

/-- Settles O48: two rows with a word in common would agree wherever both fix a bit. -/
theorem opcodeRowsDoNotOverlap : Obligations.OpcodeRowsDoNotOverlap :=
  ⟨rfl, commandRows_pairwise, fun _ _ => decodeCommand_of_selects⟩

/-- Settles O49, by running the decoder. -/
theorem sampleWordsDecode : Obligations.SampleWordsDecode := by
  unfold Obligations.SampleWordsDecode
  decide

end Sys2Proof
end

section
/-! PROOFS. The CRC engine (spec/40_crc.md R100 to R107): what bit and byte steps do to the accumulator, that none of them
loses anything of it, and when it ends at zero. -/

namespace Sys2Proof.Machine

/-- The last of several bit steps can be taken apart instead of the first. -/
theorem crcBits_succ (n : Nat) (a : Word16) : crcBits (n + 1) a = crcBit (crcBits n a) := by
  induction n generalizing a with
  | zero => rfl
  | succ n ih => exact ih (crcBit a)

/-- A bit step moves bit 0 to bit 15, the shift leaving it free and the constant having it set (R100). -/
theorem getLsbD_crcBit_top (a : Word16) : (crcBit a).getLsbD 15 = a.getLsbD 0 := by
  unfold crcBit
  split
  · next h => simp [crcPoly, h]
  · next h => simpa using h

/-- A bit step loses nothing: bit 15 of its result tells whether the constant was applied (R106). -/
theorem crcBit_injective : Function.Injective crcBit := by
  intro a b h
  have hbit : a.getLsbD 0 = b.getLsbD 0 := by rw [← getLsbD_crcBit_top, h, getLsbD_crcBit_top]
  have hshift : a >>> 1 = b >>> 1 := by
    rw [crcBit, crcBit, hbit] at h
    split at h
    · exact BitVec.xor_left_inj _ |>.1 h
    · exact h
  apply BitVec.eq_of_getLsbD_eq
  intro k hk
  cases k with
  | zero => exact hbit
  | succ k =>
    have hk' := congrArg (fun w => w.getLsbD k) hshift
    simpa [Nat.add_comm 1 k] using hk'

theorem crcBits_injective (n : Nat) : Function.Injective (crcBits n) := by
  induction n with
  | zero => exact fun _ _ h => h
  | succ n ih => exact ih.comp crcBit_injective

/-- For a fixed byte, two different accumulators never merge (R106). -/
theorem crcByte_injective (b : Byte) : Function.Injective (fun a : Word16 => crcByte a b) :=
  (crcBits_injective 8).comp fun _ _ => (BitVec.xor_left_inj _).1

theorem crcFold_injective (bytes : List Byte) : Function.Injective (fun a : Word16 => crcFold a bytes) := by
  induction bytes with
  | nil => exact fun _ _ h => h
  | cons b bs ih => exact ih.comp (crcByte_injective b)

/-- As long as the bits shifted out are 0, the constant is not applied and bit steps are a shift (R107 (d)). -/
theorem crcBits_of_low_zero {n : Nat} {a : Word16} (h : ∀ k < n, a.getLsbD k = false) : crcBits n a = a >>> n := by
  induction n generalizing a with
  | zero => simp [crcBits]
  | succ n ih =>
    have hbit : ¬ a.getLsbD 0 = true := by rw [h 0 (Nat.succ_pos n)]; decide
    have hstep : crcBit a = a >>> 1 := if_neg hbit
    rw [crcBits, hstep, ih, ← BitVec.shiftRight_add, Nat.add_comm]
    intro k hk
    rw [BitVec.getLsbD_ushiftRight]
    exact h _ (by omega)

/-- The bits of two bytes put together. -/
theorem getLsbD_append_bytes (hi lo : Byte) (k : Nat) :
    (hi ++ lo : Word16).getLsbD k = if k < 8 then lo.getLsbD k else hi.getLsbD (k - 8) :=
  BitVec.getLsbD_append

/-- Exclusive-oring a word's own low byte into it clears that byte. -/
theorem append_xor_low (hi lo : Byte) : (hi ++ lo : Word16) ^^^ lo.setWidth 16 = hi ++ 0#8 := by
  apply BitVec.eq_of_getLsbD_eq
  intro k hk
  rw [BitVec.getLsbD_xor, BitVec.getLsbD_setWidth, getLsbD_append_bytes, getLsbD_append_bytes]
  by_cases hlow : k < 8
  · simp [hlow, hk]
  · simp [hlow, show 8 ≤ k by omega]

/-- A word shifted right by a byte is its high byte, zero-extended. -/
theorem append_ushiftRight_byte (hi lo : Byte) : (hi ++ lo : Word16) >>> 8 = 0#8 ++ hi := by
  rw [BitVec.ushiftRight_eq_extractLsb'_of_lt (by decide)]
  exact congrArg (0#8 ++ ·) (extract_append_high hi lo)

/-- Folding in the accumulator's own low byte brings its high byte down unchanged (R107 (d)). -/
theorem crcByte_low_self (hi lo : Byte) : crcByte (hi ++ lo) lo = 0#8 ++ hi := by
  have hzero : ∀ k < 8, (hi ++ 0#8 : Word16).getLsbD k = false := by
    intro k hk
    rw [getLsbD_append_bytes, if_pos hk, BitVec.getLsbD_zero]
  rw [crcByte, append_xor_low, crcBits_of_low_zero hzero, append_ushiftRight_byte]

/-- Two bytes bring an accumulator to zero exactly when they are its own low and high byte (R107 (d)): they do, and no other
accumulator goes there (R106). -/
theorem crcFold_pair_eq_zero_iff (c : Word16) (lo hi : Byte) : crcFold c [lo, hi] = 0 ↔ c = hi ++ lo := by
  have hzero : crcFold (hi ++ lo) [lo, hi] = 0 := by
    rw [crcFold_cons, crcByte_low_self, crcFold_cons, crcByte_low_self]
    rfl
  rw [← hzero]
  exact (crcFold_injective [lo, hi]).eq_iff

/-- A word is a pair of bytes exactly when these are its low and its high byte. -/
theorem eq_append_iff_bytes (c : Word16) (lo hi : Byte) : c = hi ++ lo ↔ lo = crcLow c ∧ hi = crcHigh c := by
  constructor
  · rintro rfl
    exact ⟨(extract_append_low hi lo).symm, (extract_append_high hi lo).symm⟩
  · rintro ⟨rfl, rfl⟩
    exact (append_extract_word c).symm

/-- A checksum continues from any beginning that has one (R107 (b)). -/
theorem crc16_append {s : List Byte} {c : Word16} (h : crc16 s = some c) (t : List Byte) :
    crc16 (s ++ t) = some (crcFold c t) := by
  cases s with
  | nil => cases h
  | cons b bs =>
    cases h
    exact congrArg some (crcFold_append crcInit (b :: bs) t)

/-- A frame of at least three bytes is a non-empty body and two bytes (R105). -/
theorem exists_body_pair {f : List Byte} (h : 3 ≤ f.length) : ∃ body lo hi, body ≠ [] ∧ f = body ++ [lo, hi] := by
  have hlast : (f.drop (f.length - 2)).length = 2 := by rw [List.length_drop]; omega
  obtain ⟨lo, hi, hpair⟩ := List.length_eq_two.1 hlast
  refine ⟨f.take (f.length - 2), lo, hi, List.length_pos_iff.1 ?_, ?_⟩
  · rw [List.length_take]; omega
  · rw [← hpair, List.take_append_drop]

end Sys2Proof.Machine
end

section
/-! PROOFS. The words of a row of the opcode map (spec/30_encoding.md R77, R78). -/

namespace Sys2Proof

open Machine Statements

@[simp] theorem opField_commandWord (op : Byte) (arg : Word32) : opField (commandWord op arg) = op :=
  extract_append_high op arg

/-- A word is its `op` and its `arg` put together (R76). -/
theorem eq_commandWord_iff (w : CommandWord) (op : Byte) (arg : Word32) :
    w = commandWord op arg ↔ w.extractLsb' 32 8 = op ∧ w.extractLsb' 0 32 = arg := by
  constructor
  · rintro rfl
    exact ⟨extract_append_high op arg, extract_append_low op arg⟩
  · rintro ⟨rfl, rfl⟩
    exact ((append_extract w 0 32 8).trans BitVec.extractLsb'_eq_self).symm

/-- The bits of `arg` above an operand are 0 exactly when `arg` is the operand, zero-extended. -/
theorem extract_above_eq_zero_iff (n : Nat) (arg : Word32) :
    arg.extractLsb' n (32 - n) = 0 ↔ arg = (arg.extractLsb' 0 n).setWidth 32 := by
  rw [BitVec.eq_of_getLsbD_eq_iff, BitVec.eq_of_getLsbD_eq_iff]
  constructor
  · intro h k hk
    by_cases hoperand : k < n
    · simp [hk, hoperand]
    · have hk' := h (k - n) (by omega)
      simpa [hoperand, hk, show k - n < 32 - n by omega, show n + (k - n) = k by omega] using hk'
  · intro h k hk
    have hk' := h (n + k) (by omega)
    simpa [hk] using hk'

/-- A row that selects a word has the word's `op`. -/
theorem opField_fixed_of_selects {r : CommandRow} (hr : r ∈ commandRows) {w : CommandWord} (hw : r.selects w = true) :
    opField r.fixed = opField w := by
  obtain ⟨op, n, meaning, hn, rfl, -⟩ := exists_fieldRow_of_mem hr
  rw [(fieldRow_selects_iff hn op meaning w).1 hw]
  exact (opField_commandWord op 0).trans (opField_commandWord op _).symm

/-- No two rows have the same `op` (R77). -/
theorem eq_of_opField_fixed_eq {r r' : CommandRow} (hr : r ∈ commandRows) (hr' : r' ∈ commandRows)
    (h : opField r.fixed = opField r'.fixed) : r = r' := by
  have hnodup : (commandRows.map fun r => opField r.fixed).Nodup := by decide
  exact List.inj_on_of_nodup_map hnodup hr hr' h

/-- The words with a row's `op`: those with only zeros above the operand are the row's instruction, and the others fit no
row, so they are refused. -/
theorem words_of_fieldRow {op : Byte} {n : Nat} {meaning : BitVec n → Instr} (hr : fieldRow op n meaning ∈ commandRows)
    (hn : n ≤ 32) :
    Words op (fun arg => arg.extractLsb' n (32 - n) = 0) (fun arg => meaning (arg.extractLsb' 0 n)) := by
  intro w hop
  have hselects : (fieldRow op n meaning).selects w = true ↔ (w.extractLsb' 0 32).extractLsb' n (32 - n) = 0 := by
    rw [fieldRow_selects_iff hn, eq_commandWord_iff, extract_above_eq_zero_iff, extract_extract_low w (by omega)]
    exact and_iff_right hop
  constructor
  · intro hlegal
    rw [decodeCommand_of_selects hr (hselects.2 hlegal)]
    exact congrArg (fun v => Except.ok (meaning v)) (extract_extract_low w (by omega)).symm
  · intro hillegal s rest
    refine step_unmapped_refused fun ⟨r, hmem, hw⟩ => hillegal (hselects.1 ?_)
    have hsame : opField r.fixed = opField (fieldRow op n meaning).fixed := by
      rw [opField_fixed_of_selects hmem hw, fieldRow, opField_commandWord]
      exact hop
    rwa [← eq_of_opField_fixed_eq hmem hr hsame]

/-- The words of a row without an operand: those with `arg` 0. -/
theorem words_of_noOperand {op : Byte} {i : Instr} (hr : fieldRow op 0 (fun _ => i) ∈ commandRows) :
    Words op (fun arg => arg = 0) (fun _ => i) := by
  have h := words_of_fieldRow hr (Nat.zero_le 32)
  simpa only [Nat.sub_zero, BitVec.extractLsb'_eq_self] using h

end Sys2Proof
end

section
/-! PROOFS. The statements about the CRC engine (spec/40_crc.md). -/

namespace Sys2Proof

open Machine

/-- Settles O1: the words are those of a row without an operand, and the effect is one write of `CRC`. -/
theorem crcinitStartsChecksum : Obligations.CrcinitStartsChecksum :=
  ⟨words_of_noOperand (by simp [commandRows_eq_fieldRows]), fun _ => exec_crcinit⟩

/-- Settles O2: the words are those of a row with a byte operand, and the accumulators are those after k bit steps. -/
theorem crcbyteFoldsEightBitSteps : Obligations.CrcbyteFoldsEightBitSteps :=
  ⟨words_of_fieldRow (n := 8) (meaning := .crcbyte) (by simp [commandRows_eq_fieldRows]) (by decide),
    fun s b h => ⟨fun k => crcBits k (s.crc ^^^ b.setWidth 16), rfl, fun k _ => crcBits_succ k _, exec_crcbyte h b⟩⟩

/-- Settles O3: the byte step is injective, and there are finitely many accumulators. -/
theorem crcByteIsBijective : Obligations.CrcByteIsBijective :=
  fun b => Finite.injective_iff_bijective.1 (crcByte_injective b)

/-- Settles O4, by the fold over a concatenation. -/
theorem crcIsIncremental : Obligations.CrcIsIncremental :=
  fun b s t => ⟨_, crc16_cons b s, crc16_append (crc16_cons b s) t⟩

/-- Settles O5: the checksum's own bytes bring it to zero. -/
theorem crcResidueIsZero : Obligations.CrcResidueIsZero := by
  intro s c hc
  rw [crc16_append hc]
  exact congrArg some ((crcFold_pair_eq_zero_iff c _ _).2 (append_extract_word c).symm)

/-- Settles O6: both say that the last two bytes are those of the checksum of the others. -/
theorem crcOkExactlyWhenResidueZero : Obligations.CrcOkExactlyWhenResidueZero := by
  intro f hlen
  obtain ⟨body, lo, hi, hne, rfl⟩ := exists_body_pair hlen
  rw [crcOk_append_pair hne, crc16_append (crc16_of_ne_nil hne), Option.some_inj, crcFold_pair_eq_zero_iff,
    eq_append_iff_bytes, Bool.and_eq_true, beq_iff_eq, beq_iff_eq]

end Sys2Proof
end

section
/-! PROOFS. The words of BUILDREQ, and what it leaves (spec/30_encoding.md R77, spec/41_request.md R120, R123). -/

namespace Sys2Proof.Machine

/-- Byte `k` of `TX` after BUILDREQ is byte `k` of the request. -/
theorem read_buildFrame {s : State} (hwf : Memory.wf s.tx = true) (start count : Word16) {k : Nat} (hk : k < 8) :
    Memory.read (buildFrame start count s).tx k = (buildRequest (cfgAddr s.cfg) start count).getD k 0 := by
  rw [← memRead_buildFrame hwf, getD_memRead _ _ _ hk, Nat.zero_add]

/-- The bytes of `TX` the frame does not reach are as before. -/
theorem read_buildFrame_of_ge (s : State) (start count : Word16) {k : Nat} (hk : 8 ≤ k) :
    Memory.read (buildFrame start count s).tx k = Memory.read s.tx k :=
  read_memWrite_other s.tx 0 (buildRequest (cfgAddr s.cfg) start count) (.inr hk)

/-- BUILDREQ sets `TXV`. -/
theorem stTxv_buildFrame (s : State) (start count : Word16) : stTxv (buildFrame start count s).status = true :=
  getLsbD_putBit s.status 5 true 5

/-- BUILDREQ writes no bit of `STATUS` but `TXV`. -/
theorem getLsbD_status_buildFrame (s : State) (start count : Word16) {k : Nat} (hk : k ≠ 5) :
    (buildFrame start count s).status.getLsbD k = s.status.getLsbD k :=
  getLsbD_putBit_other s.status 5 true hk

end Sys2Proof.Machine

namespace Sys2Proof

open Machine

/-- Every word with BUILDREQ's `op` is BUILDREQ of the halves of its `arg`: the operand leaves no bit to be 0. -/
theorem decodeCommand_buildreq {w : CommandWord} (hop : w.extractLsb' 32 8 = 0x12) :
    decodeCommand w = .ok (.buildreq (w.extractLsb' 16 16) (w.extractLsb' 0 16)) := by
  have hrow : fieldRow 0x12 32 buildreqOf ∈ commandRows := by simp [commandRows_eq_fieldRows]
  obtain ⟨hdecode, -⟩ := words_of_fieldRow hrow le_rfl w hop
  have hstart : (w.extractLsb' 0 32).extractLsb' 16 16 = w.extractLsb' 16 16 := extract_extract_low w (by decide)
  have hcount : (w.extractLsb' 0 32).extractLsb' 0 16 = w.extractLsb' 0 16 := extract_extract_low w (by decide)
  simpa only [BitVec.extractLsb'_eq_self, buildreqOf, hstart, hcount] using hdecode BitVec.of_length_zero

end Sys2Proof
end

section
/-! PROOFS. The statements about the configuration and the request builder (spec/41_request.md). -/

namespace Sys2Proof

open Machine Statements

/-- Settles O8: the words are those of a row with a byte operand, and the effect is one write of `CFG.ADDR`. -/
theorem setaddrWritesAddressOnly : Obligations.SetaddrWritesAddressOnly :=
  ⟨words_of_fieldRow (n := 8) (meaning := .setaddr) (by simp [commandRows_eq_fieldRows]) (by decide),
    fun s a h => ⟨putField s.cfg 0 a, exec_setaddr h a, extract_putField_same s.cfg 0 a (by decide),
      fun k hk => getLsbD_putField_other s.cfg 0 a k (by omega)⟩⟩

/-- Settles O9: the words are those of a row with a one-bit operand, and the effect is one write of `CFG.CRCEN`. -/
theorem setcrcenWritesPolicyOnly : Obligations.SetcrcenWritesPolicyOnly :=
  ⟨words_of_fieldRow (n := 1) (meaning := .setcrcen) (by simp [commandRows_eq_fieldRows]) (by decide),
    fun s e h => ⟨putField s.cfg 8 e, exec_setcrcen h e, getLsbD_putField s.cfg 8 e 8,
      fun k hk => getLsbD_putField_other s.cfg 8 e k (by omega)⟩⟩

/-- Settles O10: with a count the effect is `buildFrame`, whose `TX` is the request byte by byte; without one it is the
refusal. -/
theorem buildreqBuildsFrameOrRefuses : Obligations.BuildreqBuildsFrameOrRefuses := by
  refine ⟨fun w => decodeCommand_buildreq, ?_, fun s start h => ⟨_, exec_buildreq_zero h start, refused_refuse s _⟩⟩
  intro s start count h hwf hcount
  have byte {k : Nat} (hk : k < 8) := read_buildFrame hwf start count hk
  exact ⟨_, requestCrc (cfgAddr s.cfg) start count, exec_buildreq h hcount, crc16_cons _ _,
    byte (k := 0) (by decide), byte (k := 1) (by decide), byte (k := 2) (by decide), byte (k := 3) (by decide),
    byte (k := 4) (by decide), byte (k := 5) (by decide), byte (k := 6) (by decide), byte (k := 7) (by decide),
    fun k hk => read_buildFrame_of_ge s start count hk, rfl, stTxv_buildFrame s start count,
    fun k hk => getLsbD_status_buildFrame s start count hk, rfl⟩

/-- Settles O11: what BUILDREQ leaves in `TX` is the request, which carries its own trailer. -/
theorem builtFrameHasRightTrailer : Obligations.BuiltFrameHasRightTrailer := by
  intro s start count h hwf hcount
  refine ⟨_, exec_buildreq h hcount, ?_, read_buildFrame hwf start count (k := 1) (by decide)⟩
  rw [memRead_buildFrame hwf, crcOk_buildRequest]

/-- Settles O12: the request and its checksum are functions of the address, start and count. -/
theorem builtFrameDependsOnAddressAndRangeOnly : Obligations.BuiltFrameDependsOnAddressAndRangeOnly := by
  intro s s' start count h h' hwf hwf' hcount haddr
  refine ⟨_, _, exec_buildreq h hcount, exec_buildreq h' hcount, ?_,
    congrArg (requestCrc · start count) haddr⟩
  rw [memRead_buildFrame hwf, memRead_buildFrame hwf']
  exact congrArg (buildRequest · start count) haddr

end Sys2Proof
end

section
/-! PROOFS. DECODE by its tests (spec/42_decode.md R138, R147): the cause found before the checksum, what becomes of `CRC`
and `STATUS`, and the bytes the fields are taken from. -/

namespace Sys2Proof.Machine

section
variable {n : Word16} {s : State}

/-- The counts DECODE admits (spec/00_scope.md R7). -/
theorem countAdmitted_iff : countAdmitted n = true ↔ n = 3 ∨ n = 10 := by
  simp [countAdmitted]

/-- An unsupported count is found first (R183). -/
theorem earlyCause_of_badCount (h3 : n ≠ 3) (h10 : n ≠ 10) : earlyCause n s = some .badCount := by
  have hn : countAdmitted n = false := Bool.eq_false_iff.2 fun h => (countAdmitted_iff.1 h).elim h3 h10
  simp [earlyCause, hn]

/-- An overrun is found next (R183). -/
theorem earlyCause_of_overrun (hn : n = 3 ∨ n = 10) (hovf : stRxOvf s.status = true) :
    earlyCause n s = some .overrun := by
  simp [earlyCause, countAdmitted_iff.2 hn, hovf]

/-- A short response is found last before the checksum (R183). -/
theorem earlyCause_of_short (hn : n = 3 ∨ n = 10) (hovf : stRxOvf s.status = false)
    (hshort : s.rxlen.toNat < minLen n) : earlyCause n s = some .short := by
  simp [earlyCause, countAdmitted_iff.2 hn, hovf, hshort]

/-- Nothing is found when the three tests pass. -/
theorem earlyCause_of_passes (hn : n = 3 ∨ n = 10) (hovf : stRxOvf s.status = false)
    (hlong : minLen n ≤ s.rxlen.toNat) : earlyCause n s = none := by
  simp [earlyCause, countAdmitted_iff.2 hn, hovf, hlong.not_gt]

/-- A response that passes the three tests is longer than a trailer. -/
theorem three_le_rxlen_of_early_none (h : earlyCause n s = none) : 3 ≤ s.rxlen.toNat := by
  rcases earlyCause_cases n s with ⟨-, -, he⟩ | ⟨-, -, he⟩ | ⟨-, -, -, he⟩ | ⟨-, -, hlong, -⟩
  · cases h.symm.trans he
  · cases h.symm.trans he
  · cases h.symm.trans he
  · unfold minLen at hlong
    omega

/-- With a cause found before it, the checksum is not noted. -/
theorem noteChecksum_of_early {c : Cause} (h : earlyCause n s = some c) : noteChecksum n s = s := by
  simp [noteChecksum, crcRuns, h]

/-- With the policy off, the checksum is not noted (R147). -/
theorem noteChecksum_of_policy_off (h : cfgCrcEn s.cfg = false) : noteChecksum n s = s := by
  simp [noteChecksum, crcRuns, h]

/-- With the earlier tests passed and the policy on, the checksum is noted (R147). -/
theorem noteChecksum_of_policy_on (h : earlyCause n s = none) (hen : cfgCrcEn s.cfg = true) :
    noteChecksum n s = s.setCrc (rxChecksum s) := by
  simp [noteChecksum, crcRuns, h, hen]

/-- DECODE with a cause gives "no data". -/
theorem decodeRx_of_some {c : Cause} (h : decodeCause n s = some c) :
    decodeRx n s = giveNoData c (noteChecksum n s) := by
  rw [decodeRx, h]

/-- DECODE without a cause gives a Reading. -/
theorem decodeRx_of_none (h : decodeCause n s = none) : decodeRx n s = giveReading n (noteChecksum n s) := by
  rw [decodeRx, h]

/-- With the earlier tests passed, DECODE finds no cause if the response passes the check or the policy asks for none. -/
theorem decodeCause_of_crcOk (h : earlyCause n s = none)
    (hcrc : cfgCrcEn s.cfg = true → crcOk (rxBytes s) = true) : decodeCause n s = none := by
  rw [decodeCause_of_early_none h, trailerMatches_eq_crcOk (three_le_rxlen_of_early_none h)]
  cases hen : cfgCrcEn s.cfg with
  | false => rfl
  | true => simp [hcrc hen]

@[simp] theorem status_noteChecksum : (noteChecksum n s).status = s.status := by
  rw [noteChecksum_eq]
  rfl

/-- What DECODE writes of `STATUS` when it finds a cause (R138, R181). -/
theorem status_decodeRx_of_some {c : Cause} (h : decodeCause n s = some c) :
    (decodeRx n s).status = putDecode s.status outcomeNoData c.code 0 := by
  rw [decodeRx_of_some h, giveNoData, State.setStatus_status, status_noteChecksum]

/-- What DECODE writes of `STATUS` when it finds none (R138, R145). -/
theorem status_decodeRx_of_none (h : decodeCause n s = none) :
    (decodeRx n s).status = putDecode s.status outcomeReading 0 (if n = 10 then validTen else validThree) := by
  rw [decodeRx_of_none h]
  by_cases hn : n = 10
  · subst hn
    rw [giveReading_ten, State.setStatus_status, status_noteChecksum, if_pos rfl]
  · rw [giveReading_three hn, State.setStatus_status, status_noteChecksum, if_neg hn]

end

section
variable (n : Word16) (s : State)

/-- The outcome, cause and valid bits written depend on the count and on the cause found alone. -/
theorem exists_status_decodeRx (cause : Option Cause) :
    ∃ o c m, ∀ s, decodeCause n s = cause → (decodeRx n s).status = putDecode s.status o c m := by
  cases cause with
  | some c => exact ⟨_, _, _, fun _ => status_decodeRx_of_some⟩
  | none => exact ⟨_, _, _, fun _ => status_decodeRx_of_none⟩

@[simp] theorem halted_decodeRx : (decodeRx n s).halted = s.halted := by
  obtain ⟨o, c, m, hst⟩ := exists_status_decodeRx n (decodeCause n s)
  rw [State.halted, hst s rfl, stErr_putDecode, State.halted]

@[simp] theorem stRxOvf_decodeRx : stRxOvf (decodeRx n s).status = stRxOvf s.status := by
  obtain ⟨o, c, m, hst⟩ := exists_status_decodeRx n (decodeCause n s)
  rw [hst s rfl, stRxOvf_putDecode]

@[simp] theorem cfg_decodeRx : (decodeRx n s).cfg = s.cfg := by
  rw [decodeRx_writes]
  rfl

/-- DECODE does not consume its input (R149). -/
@[simp] theorem rxBytes_decodeRx : rxBytes (decodeRx n s) = rxBytes s := by
  rw [decodeRx_writes]
  rfl

@[simp] theorem rxChecksum_decodeRx : rxChecksum (decodeRx n s) = rxChecksum s := by
  rw [decodeRx_writes]
  rfl

/-- Of DECODE only the check writes `CRC` (R138). -/
theorem crc_decodeRx : (decodeRx n s).crc = (noteChecksum n s).crc := by
  rcases decodeRx_cases n s with ⟨c, -, h⟩ | ⟨-, h⟩
  · rw [h]
    rfl
  · rw [h, giveReading]
    split <;> rfl

/-- A DECODE that ran no check leaves `CRC` (R147). -/
theorem crc_decodeRx_of_policy_off (h : cfgCrcEn s.cfg = false) : (decodeRx n s).crc = s.crc := by
  rw [crc_decodeRx, noteChecksum_of_policy_off h]

end

/-- The checksum DECODE notes is that of all bytes received but the last two (R138). -/
theorem crc16_of_early_none {n : Word16} {s : State} (h : earlyCause n s = none) :
    crc16 (memRead s.rx 0 (s.rxlen.toNat - 2)) = some (rxChecksum s) := by
  have hlong := three_le_rxlen_of_early_none h
  exact crc16_of_ne_nil (List.length_pos_iff.1 (by rw [length_memRead]; omega))

/-- With the policy on, a DECODE that passes the earlier tests leaves the checksum in `CRC` (R147). -/
theorem crc_decodeRx_of_policy_on {n : Word16} {s : State} (h : earlyCause n s = none) (hen : cfgCrcEn s.cfg = true) :
    (decodeRx n s).crc = rxChecksum s := by
  rw [crc_decodeRx, noteChecksum_of_policy_on h hen, State.setCrc_crc]

/-- DECODE's trailer test, byte by byte (spec/20_memory.md R59). -/
theorem trailerMatches_iff (s : State) :
    trailerMatches s = true ↔
      Memory.read s.rx (s.rxlen.toNat - 2) = crcLow (rxChecksum s) ∧
        Memory.read s.rx (s.rxlen.toNat - 1) = crcHigh (rxChecksum s) := by
  rw [trailerMatches, Bool.and_eq_true, beq_iff_eq, beq_iff_eq]

/-- Byte `k` of the response is byte `k` of `RX`. -/
theorem byteAt_rxBytes {s : State} {k : Nat} (hk : k < s.rxlen.toNat) : byteAt (rxBytes s) k = Memory.read s.rx k := by
  rw [byteAt, rxBytes, getD_memRead _ _ _ hk, Nat.zero_add]

/-- A 32-bit field from its bytes in `RX`, the low register first on the wire (spec/20_memory.md R53). -/
theorem il32_rxBytes {s : State} {o : Nat} (ho : o + 3 < s.rxlen.toNat) :
    il32 (rxBytes s) o =
      (Memory.read s.rx (o + 2) ++ Memory.read s.rx (o + 3)) ++ (Memory.read s.rx o ++ Memory.read s.rx (o + 1)) := by
  rw [il32, byteAt_rxBytes (by omega), byteAt_rxBytes (by omega), byteAt_rxBytes (by omega), byteAt_rxBytes (by omega)]
  rfl

/-- A 16-bit field from its bytes in `RX`, high byte first (spec/20_memory.md R51). -/
theorem be16_rxBytes {s : State} {o : Nat} (ho : o + 1 < s.rxlen.toNat) :
    be16 (byteAt (rxBytes s) o) (byteAt (rxBytes s) (o + 1)) = Memory.read s.rx o ++ Memory.read s.rx (o + 1) := by
  rw [byteAt_rxBytes (by omega), byteAt_rxBytes ho, be16]

end Sys2Proof.Machine
end

section
/-! PROOFS. DECODE's inputs (spec/42_decode.md R149): it reads the bytes received, `RXOVF` and the policy alone, and leaves
them, so that a second DECODE finds the same. -/

namespace Sys2Proof.Machine

section
variable {s t : State} (hbytes : rxBytes t = rxBytes s) (hovf : stRxOvf t.status = stRxOvf s.status)
include hbytes

theorem toNat_rxlen_congr : t.rxlen.toNat = s.rxlen.toNat := by
  simpa [rxBytes] using congrArg List.length hbytes

include hovf

theorem earlyCause_congr (n : Word16) : earlyCause n t = earlyCause n s := by
  rw [earlyCause, earlyCause, hovf, toNat_rxlen_congr hbytes]

/-- The cause is a function of the bytes received, `RXOVF`, the policy and the count (R149). -/
theorem decodeCause_congr (hpolicy : cfgCrcEn t.cfg = cfgCrcEn s.cfg) (n : Word16) :
    decodeCause n t = decodeCause n s := by
  have hearly := earlyCause_congr hbytes hovf n
  cases he : earlyCause n s with
  | some c => rw [decodeCause_of_early he, decodeCause_of_early (hearly.trans he)]
  | none =>
    have htrailer : trailerMatches t = trailerMatches s := by
      rw [trailerMatches_eq_crcOk (three_le_rxlen_of_early_none he),
        trailerMatches_eq_crcOk (three_le_rxlen_of_early_none (hearly.trans he)), hbytes]
    rw [decodeCause_of_early_none he, decodeCause_of_early_none (hearly.trans he), hpolicy, htrailer]

/-- The outcome, with its cause or Reading, is a function of the same (R149). -/
theorem outcomeOf_decodeRx_congr (hpolicy : cfgCrcEn t.cfg = cfgCrcEn s.cfg) (n : Word16) :
    outcomeOf (decodeRx n t) = outcomeOf (decodeRx n s) := by
  have hcause := decodeCause_congr hbytes hovf hpolicy n
  cases h : decodeCause n s with
  | some c => rw [outcomeOf_decodeRx_of_some h, outcomeOf_decodeRx_of_some (hcause.trans h)]
  | none => rw [outcomeOf_decodeRx_of_none h, outcomeOf_decodeRx_of_none (hcause.trans h), hbytes]

end

/-- Buffers that agree on the bytes below `RXLEN` hold the same response. -/
theorem rxBytes_congr {s t : State} (hlen : t.rxlen = s.rxlen)
    (hread : ∀ k < s.rxlen.toNat, Memory.read t.rx k = Memory.read s.rx k) : rxBytes t = rxBytes s := by
  rw [rxBytes, rxBytes, hlen]
  refine List.map_congr_left fun k hk => ?_
  rw [Nat.zero_add]
  exact hread k (List.mem_range.1 hk)

/-- `OUTCOME` and `CAUSE` as DECODE writes them. -/
theorem extract_outcome_cause_putDecode (st : Word32) (o : BitVec 2) (c : BitVec 3) (m : BitVec 8) :
    (putDecode st o c m).extractLsb' 0 5 = c ++ o :=
  calc (putDecode st o c m).extractLsb' 0 5
    _ = stCause (putDecode st o c m) ++ stOutcome (putDecode st o c m) := (append_extract _ 0 2 3).symm
    _ = c ++ o := by rw [stCause_putDecode, stOutcome_putDecode]

/-- A second DECODE runs the check exactly when the first did. -/
@[simp] theorem crcRuns_decodeRx (n : Word16) (s : State) : crcRuns n (decodeRx n s) = crcRuns n s := by
  rw [crcRuns, crcRuns, cfg_decodeRx, earlyCause_congr (rxBytes_decodeRx n s) (stRxOvf_decodeRx n s)]

/-- What a second DECODE would note in `CRC` stands there already. -/
theorem noteChecksum_decodeRx (n : Word16) (s : State) : noteChecksum n (decodeRx n s) = decodeRx n s := by
  rw [noteChecksum, crcRuns_decodeRx]
  split
  · next hruns =>
    have hcrc : (decodeRx n s).crc = rxChecksum s := by rw [crc_decodeRx, noteChecksum, if_pos hruns, State.setCrc_crc]
    rw [rxChecksum_decodeRx, ← hcrc]
    rfl
  · rfl

/-- "No data" given twice for one cause. -/
theorem giveNoData_giveNoData (c : Cause) (s : State) : giveNoData c (giveNoData c s) = giveNoData c s :=
  congrArg s.setStatus (putDecode_putDecode _ _ _ _ _ _ _)

/-- The Reading extracted twice from the same bytes. -/
theorem giveReading_giveReading (n : Word16) (s : State) : giveReading n (giveReading n s) = giveReading n s := by
  by_cases hn : n = 10
  · subst hn
    rw [giveReading_ten s, giveReading_ten, State.setStatus_status, putDecode_putDecode]
    rfl
  · rw [giveReading_three hn s, giveReading_three hn, State.setStatus_status, putDecode_putDecode]
    rfl

/-- DECODE after DECODE changes nothing (R149; log 12 for the registers that hold no value). -/
theorem decodeRx_decodeRx (n : Word16) (s : State) : decodeRx n (decodeRx n s) = decodeRx n s := by
  have hcause : decodeCause n (decodeRx n s) = decodeCause n s :=
    decodeCause_congr (rxBytes_decodeRx n s) (stRxOvf_decodeRx n s) (by rw [cfg_decodeRx]) n
  cases h : decodeCause n s with
  | some c => rw [decodeRx_of_some (hcause.trans h), noteChecksum_decodeRx, decodeRx_of_some h, giveNoData_giveNoData]
  | none => rw [decodeRx_of_none (hcause.trans h), noteChecksum_decodeRx, decodeRx_of_none h, giveReading_giveReading]

end Sys2Proof.Machine
end

section
/-! PROOFS. DECODE in the words of the statements: the tests it passes early, and what it leaves (spec/42_decode.md R138,
R147). -/

namespace Sys2Proof.Statements

open Machine

/-- What DECODE writes of `STATUS`, bit by bit (R138). -/
theorem decoded_of_status {s t : State} {o : BitVec 2} {c : BitVec 3} {m : BitVec 8}
    (h : t.status = putDecode s.status o c m) : Decoded s t o c m := by
  rw [Decoded, h]
  exact ⟨stOutcome_putDecode _ _ _ _, stCause_putDecode _ _ _ _, stValid_putDecode _ _ _ _,
    getLsbD_putDecode_other _ _ _ _⟩

section
variable {n : Word16} {s : State} (h : PassesEarly n s)
include h

/-- The response is as long as its count asks for. -/
theorem PassesEarly.minLen_le : minLen n ≤ s.rxlen.toNat := by
  obtain ⟨-, -, hlong⟩ := h
  exact hlong

theorem PassesEarly.earlyCause_eq : earlyCause n s = none := by
  obtain ⟨hn, hovf, hlong⟩ := h
  exact earlyCause_of_passes hn hovf hlong

/-- `CRC` after a DECODE that ran the check (R147). -/
theorem PassesEarly.crc16_eq (hen : cfgCrcEn s.cfg = true) :
    crc16 (memRead s.rx 0 (s.rxlen.toNat - 2)) = some (decodeRx n s).crc := by
  rw [crc16_of_early_none h.earlyCause_eq, crc_decodeRx_of_policy_on h.earlyCause_eq hen]

/-- A response that passes every test. -/
theorem PassesEarly.decodeCause_eq (hcrc : cfgCrcEn s.cfg = true → crcOk (received s) = true) :
    decodeCause n s = none :=
  decodeCause_of_crcOk h.earlyCause_eq hcrc

end

end Sys2Proof.Statements
end

section
/-! PROOFS. The statements about the response decoder (spec/42_decode.md). -/

namespace Sys2Proof

open Machine Statements

/-- Settles O14: the words are those of a row without an operand, and the effect writes `RXLEN` and one bit of `STATUS`. -/
theorem rxclrEmptiesBuffer : Obligations.RxclrEmptiesBuffer :=
  ⟨words_of_noOperand (by simp [commandRows_eq_fieldRows]),
    fun s h => ⟨putBit s.status 6 false, s.rx, exec_rxclr h, stRxOvf_putBit_same s.status false,
      fun _ hk => getLsbD_putBit_other s.status 6 false hk⟩⟩

/-- Settles O16: the words are those of a row with a byte operand, and the effect is a write at `RXLEN` below `RXMAX`, and
of one bit of `STATUS` at it. -/
theorem rxpushAppendsOrOverflows : Obligations.RxpushAppendsOrOverflows := by
  refine ⟨words_of_fieldRow (n := 8) (meaning := .rxpush) (by simp [commandRows_eq_fieldRows]) (by decide), ?_, ?_⟩
  · intro s b h hwf hlt
    refine ⟨pushRx b s, exec_rxpush h b, ?_⟩
    rw [pushRx, if_pos hlt]
    exact ⟨Memory.read_write_same hwf _ b, fun k hk => Memory.read_write_other s.rx b hk, toNat_rxlen_succ hlt, rfl⟩
  · intro s b h hfull
    refine ⟨putBit s.status 6 true, ?_, stRxOvf_putBit_same s.status true,
      fun _ hk => getLsbD_putBit_other s.status 6 true hk⟩
    rw [exec_rxpush h, pushRx, if_neg hfull.not_gt]
    rfl

/-- Settles O17: the words of a row with a 16-bit operand. -/
theorem decodeWords : Obligations.DecodeWords :=
  words_of_fieldRow (n := 16) (meaning := .decode) (by simp [commandRows_eq_fieldRows]) (by decide)

/-- Settles O18: each of the three failures is the cause found before the checksum, so that no checksum is noted. -/
theorem decodeNoDataBeforeChecksum : Obligations.DecodeNoDataBeforeChecksum := by
  intro s n cause h hfails
  obtain ⟨c, rfl, hearly⟩ : ∃ c : Cause, cause = c.code ∧ earlyCause n s = some c := by
    rcases hfails with ⟨h3, h10, rfl⟩ | ⟨hn, hovf, rfl⟩ | ⟨hn, hovf, hshort, rfl⟩
    · exact ⟨.badCount, rfl, earlyCause_of_badCount h3 h10⟩
    · exact ⟨.overrun, rfl, earlyCause_of_overrun hn hovf⟩
    · exact ⟨.short, rfl, earlyCause_of_short hn hovf hshort⟩
  have hcause := decodeCause_of_early hearly
  refine ⟨_, exec_decode h n, decoded_of_status (status_decodeRx_of_some hcause), ?_⟩
  rw [decodeRx_of_some hcause, noteChecksum_of_early hearly]
  rfl

/-- Settles O19: with the earlier tests passed and the policy on, the trailer test alone decides. -/
theorem decodeChecksWholeResponse : Obligations.DecodeChecksWholeResponse := by
  intro s n h hpass hen
  have hearly := hpass.earlyCause_eq
  have hcause := decodeCause_of_early_none hearly
  have hpolicy : cfgCrcEn s.cfg = true := hen
  refine ⟨_, rxChecksum s, exec_decode h n, crc16_of_early_none hearly, crc_decodeRx_of_policy_on hearly hpolicy,
    fun hright => ?_, fun hwrong => ?_⟩
  · have hnone : decodeCause n s = none := by simp [hcause, (trailerMatches_iff s).2 hright]
    rw [status_decodeRx_of_none hnone]
    exact stOutcome_putDecode _ _ _ _
  · have hmismatch : trailerMatches s = false := Bool.eq_false_iff.2 ((trailerMatches_iff s).not.2 hwrong)
    have hfail : decodeCause n s = some .crcFail := by simp [hcause, hmismatch, hpolicy]
    refine ⟨decoded_of_status (c := Cause.crcFail.code) (status_decodeRx_of_some hfail), ?_⟩
    rw [decodeRx_of_some hfail, noteChecksum_eq]
    rfl

/-- Settles O20: no test fails, so DECODE gives the ten-register Reading of the bytes in `RX`. -/
theorem decodeTenExtractsFields : Obligations.DecodeTenExtractsFields := by
  intro s h hpass hcrc
  have hnone := hpass.decodeCause_eq hcrc
  have hlong : 25 ≤ s.rxlen.toNat := hpass.minLen_le
  have hstate := decodeRx_of_none hnone
  rw [giveReading_ten, rxBytes_noteChecksum] at hstate
  refine ⟨_, exec_decode h 10, decoded_of_status (status_decodeRx_of_none hnone), ?_, ?_, ?_, ?_, ?_, ?_,
    crc_decodeRx_of_policy_off 10 s, hpass.crc16_eq, decodeRx_writes 10 s⟩
  all_goals rw [hstate]
  · exact be16_rxBytes (by omega)
  · exact il32_rxBytes (by omega)
  · exact il32_rxBytes (by omega)
  · exact il32_rxBytes (by omega)
  · exact be16_rxBytes (by omega)
  · exact be16_rxBytes (by omega)

/-- Settles O21: no test fails, so DECODE gives voltage and current from the bytes in `RX`. -/
theorem decodeThreeExtractsVoltageAndCurrent : Obligations.DecodeThreeExtractsVoltageAndCurrent := by
  intro s h hpass hcrc
  have hnone := hpass.decodeCause_eq hcrc
  have hlong : 11 ≤ s.rxlen.toNat := hpass.minLen_le
  have hstate := decodeRx_of_none hnone
  rw [giveReading_three (by decide), rxBytes_noteChecksum] at hstate
  refine ⟨_, exec_decode h 3, decoded_of_status (status_decodeRx_of_none hnone), ?_, ?_,
    crc_decodeRx_of_policy_off 3 s, hpass.crc16_eq, decodeRx_writes_three (by decide) s⟩
  all_goals rw [hstate]
  · exact be16_rxBytes (by omega)
  · exact il32_rxBytes (by omega)

/-- Settles O22: DECODE and the pure decoder make the same tests of the same bytes. -/
theorem decodeRefinesPureDecoder : Obligations.DecodeRefinesPureDecoder :=
  fun _ n h hovf => ⟨_, exec_decode h n, outcomeOf_decodeRx hovf⟩

/-- Settles O23: the cause found, and with it what DECODE writes of `STATUS` and the outcome, is a function of the listed
inputs. -/
theorem decodeIsPure : Obligations.DecodeIsPure := by
  intro s s' n h h' hlen hread hovf hpolicy
  have hbytes : rxBytes s = rxBytes s' := rxBytes_congr hlen fun k hk => hread k (hlen ▸ hk)
  obtain ⟨o, c, m, hst⟩ := exists_status_decodeRx n (decodeCause n s')
  refine ⟨_, _, exec_decode h n, exec_decode h' n, ?_, ?_, outcomeOf_decodeRx_congr hbytes hovf hpolicy n⟩
  all_goals rw [hst s (decodeCause_congr hbytes hovf hpolicy n), hst s' rfl]
  · rw [extract_outcome_cause_putDecode, extract_outcome_cause_putDecode]
  · exact (stValid_putDecode _ _ _ _).trans (stValid_putDecode _ _ _ _).symm

/-- Settles O24: the block still accepts commands, and DECODE's effect is idempotent. -/
theorem decodeIsIdempotent : Obligations.DecodeIsIdempotent := by
  intro s n h
  refine ⟨_, exec_decode h n, ?_⟩
  rw [exec_decode ((halted_decodeRx n s).trans h), decodeRx_decodeRx]

end Sys2Proof
end

section
/-! PROOFS. The scaler (spec/43_scale_derive.md R160): the physical value of a register by its valid bit and its weight. -/

namespace Sys2Proof.Machine

section
variable {r : Reg} {s : State}

/-- A register of the Reading holds a value exactly while its bit of `STATUS` is 1, `VALID` being bits 15:8 (R25, R28). -/
theorem Reg.valid_of_validBit {k : Fin 8} (hr : r.validBit = some k.val) : r.valid s = s.status.getLsbD (8 + k.val) := by
  simp [Reg.valid, hr, stValid]

/-- The exact quotient while the register's valid bit is 1, and none while it is 0 (R160, R28). -/
theorem physical_of_weight {n w : Nat} {k : Fin 8} {content : BitVec n} (hw : r.weight = some w)
    (hk : r.validBit = some k.val) (hbits : r.bits s = content.setWidth 48) (hn : n ≤ 48) :
    physical r s = if s.status.getLsbD (8 + k.val) then some ((content.toNat : ℚ) / w) else none := by
  have hraw : (r.bits s).toNat = content.toNat := by rw [hbits, BitVec.toNat_setWidth_of_le hn]
  rw [physical, hw, readReg, Reg.valid_of_validBit hk, ← hraw]
  cases s.status.getLsbD (8 + k.val) <;> rfl

/-- A register without a weight has no physical value. -/
theorem physical_of_weight_none (hw : r.weight = none) : physical r s = none := by
  rw [physical, hw]

end

end Sys2Proof.Machine
end

section
/-! PROOFS. DERIVE's effect (spec/43_scale_derive.md R169): its inputs, the bits of `STATUS` it sets, and that it repeats. -/

namespace Sys2Proof.Machine

/-- DERIVE's inputs are valid exactly when three bits of `STATUS` are 1 (R25, R169). -/
theorem inputsValid_eq (s : State) :
    inputsValid s = (s.status.getLsbD 8 && s.status.getLsbD 9 && s.status.getLsbD 10) := by
  rw [inputsValid, Reg.valid_of_validBit (k := 0) rfl, Reg.valid_of_validBit (k := 1) rfl,
    Reg.valid_of_validBit (k := 2) rfl]
  rfl

theorem inputsValid_of_bits {s : State} (hV : s.status.getLsbD 8 = true) (hI : s.status.getLsbD 9 = true)
    (hP : s.status.getLsbD 10 = true) : inputsValid s = true := by
  rw [inputsValid_eq, hV, hI, hP]
  rfl

section
variable (s : State)

@[simp] theorem toNat_regS_derivePower : (derivePower s).regS.toNat = apparent s := toNat_apparent s

@[simp] theorem toNat_regQ_derivePower : (derivePower s).regQ.toNat = reactive s := toNat_reactive s

/-- DERIVE adds `S` and `Q` to what is valid. -/
@[simp] theorem stValid_derivePower : stValid (derivePower s).status = stValid s.status ||| validDerived :=
  extract_putField_same s.status 8 _ (by decide)

/-- Of `STATUS`, DERIVE sets bits 14 and 15 and leaves the others (R169, R25). -/
theorem getLsbD_status_derivePower (k : Nat) :
    (derivePower s).status.getLsbD k = (s.status.getLsbD k || decide (k = 14 ∨ k = 15)) := by
  have hset : ∀ j : Fin 8, validDerived.getLsbD j = decide (8 + j.val = 14 ∨ 8 + j.val = 15) := by decide
  rw [derivePower, State.setStatus_status, getLsbD_putField]
  split
  · next hin =>
    obtain ⟨hlow, hhigh, -⟩ := hin
    obtain ⟨j, rfl⟩ := Nat.exists_eq_add_of_le hlow
    have hj : j < 8 := by omega
    rw [Nat.add_sub_cancel_left, BitVec.getLsbD_or, hset ⟨j, hj⟩, stValid, BitVec.getLsbD_extractLsb', decide_eq_true hj,
      Bool.true_and]
  · next hout => simp [show ¬(k = 14 ∨ k = 15) by omega]

theorem getLsbD_status_derivePower_other {k : Nat} (h14 : k ≠ 14) (h15 : k ≠ 15) :
    (derivePower s).status.getLsbD k = s.status.getLsbD k := by
  simp [getLsbD_status_derivePower, h14, h15]

@[simp] theorem halted_derivePower : (derivePower s).halted = s.halted :=
  getLsbD_status_derivePower_other s (by decide) (by decide)

@[simp] theorem inputsValid_derivePower : inputsValid (derivePower s) = inputsValid s := by
  simp (disch := decide) only [inputsValid_eq, getLsbD_status_derivePower_other]

/-- DERIVE leaves its inputs, so that a second one computes the same (R169). -/
theorem derivePower_derivePower : derivePower (derivePower s) = derivePower s := by
  have hstatus : (derivePower (derivePower s)).status = (derivePower s).status :=
    calc (derivePower (derivePower s)).status
      _ = putField (derivePower s).status 8 (stValid s.status ||| validDerived) := by
        rw [derivePower, State.setStatus_status, stValid_derivePower, BitVec.or_assoc, BitVec.or_self]
      _ = (derivePower s).status := putField_putField _ _ _ _
  exact congrArg (derivePower s).setStatus hstatus

end

end Sys2Proof.Machine
end

section
/-! PROOFS. The ideal reactive power (spec/43_scale_derive.md R168): the calculator's root between it and one unit less, and
the values where the root is exact. -/

namespace Sys2Proof.Machine

section
variable (s : State)

/-- The radicand over the reals. -/
theorem cast_radicand : (radicand s : ℝ) = (apparent s : ℝ) ^ 2 - 1000000 * (s.regP.toNat : ℝ) ^ 2 := by
  rw [radicand]
  push_cast
  ring

/-- The ideal reactive power of a Reading, in units of 0.0001 var, is the real root of the clamped radicand. -/
theorem sqrt_ideal_eq :
    Real.sqrt (max (((s.regV.toNat : ℝ) / 10 * ((s.regI.toNat : ℝ) / 1000)) ^ 2 - ((s.regP.toNat : ℝ) / 10) ^ 2) 0) =
      Real.sqrt (max (radicand s : ℝ) 0) / 10000 := by
  have hradicand : ((s.regV.toNat : ℝ) / 10 * ((s.regI.toNat : ℝ) / 1000)) ^ 2 - ((s.regP.toNat : ℝ) / 10) ^ 2 =
      (radicand s : ℝ) / 10000 ^ 2 := by
    rw [cast_radicand, apparent]
    push_cast
    ring
  have hmax : max ((radicand s : ℝ) / 10000 ^ 2) 0 = max (radicand s : ℝ) 0 / 10000 ^ 2 := by
    rw [← max_div_div_right (by positivity), zero_div]
  rw [hradicand, hmax, Real.sqrt_div' _ (by positivity), Real.sqrt_sq (by norm_num)]

/-- The integer root is the real root rounded down. -/
theorem reactive_le_sqrt : (reactive s : ℝ) ≤ Real.sqrt (max (radicand s : ℝ) 0) := by
  obtain ⟨hle, -⟩ := reactive_spec s
  refine Real.le_sqrt_of_sq_le ?_
  rw [sq]
  exact_mod_cast hle

theorem sqrt_lt_reactive_succ : Real.sqrt (max (radicand s : ℝ) 0) < (reactive s : ℝ) + 1 := by
  obtain ⟨-, hlt⟩ := reactive_spec s
  rw [Real.sqrt_lt' (by positivity), sq]
  exact_mod_cast hlt

end

section
variable {s : State}

/-- Without active power all power is reactive (R169). -/
theorem reactive_of_regP_zero (h : s.regP = 0) : reactive s = apparent s := by
  have hsquare : max (radicand s) 0 = ((apparent s * apparent s : Nat) : Int) := by
    rw [radicand, h]
    simp [mul_self_nonneg]
  rw [reactive, hsquare, Int.toNat_natCast, isqrt_mul_self]

/-- At a power factor of 1 or more the radicand is clamped (R169). -/
theorem reactive_of_apparent_le (h : apparent s ≤ 1000 * s.regP.toNat) : reactive s = 0 := by
  have hclamped : radicand s ≤ 0 := by
    have hsquare : apparent s * apparent s ≤ 1000 * s.regP.toNat * (1000 * s.regP.toNat) := Nat.mul_le_mul h h
    zify at hsquare
    rw [radicand]
    linarith
  rw [reactive, max_eq_right hclamped, Int.toNat_zero, isqrt_zero]

end

end Sys2Proof.Machine
end

section
/-! PROOFS. The statements about the scaler and the calculator (spec/43_scale_derive.md). -/

namespace Sys2Proof

open Machine Statements

/-- Settles O27: the words are those of a row without an operand; with its inputs valid DERIVE writes the product, the
integer root and two bits of `STATUS`, and without one of them it is refused. -/
theorem deriveComputesOrRefuses : Obligations.DeriveComputesOrRefuses := by
  refine ⟨words_of_noOperand (by simp [commandRows_eq_fieldRows]), ?_, ?_⟩
  · intro s h hV hI hP
    obtain ⟨hle, hlt⟩ := reactive_spec s
    refine ⟨derivePower s, exec_derive h (inputsValid_of_bits hV hI hP), toNat_regS_derivePower s, ?_, ?_, ?_, ?_,
      fun _ => getLsbD_status_derivePower_other s, rfl⟩
    · rwa [toNat_regS_derivePower, toNat_regQ_derivePower]
    · rwa [toNat_regS_derivePower, toNat_regQ_derivePower]
    · simp [getLsbD_status_derivePower]
    · simp [getLsbD_status_derivePower]
  · intro s h hmissing
    have hinvalid : inputsValid s = false := by
      rw [inputsValid_eq, Bool.and_eq_false_iff, Bool.and_eq_false_iff, or_assoc]
      exact hmissing
    exact ⟨_, exec_derive_noInput h hinvalid, refused_refuse s .noInput⟩

/-- Settles O28: both sides are the calculator's integers divided by 10000, and the integer root is the real one rounded
down. -/
theorem deriveApproximatesIdealPower : Obligations.DeriveApproximatesIdealPower := by
  intro s h hV hI hP
  refine ⟨derivePower s, exec_derive h (inputsValid_of_bits hV hI hP), ?_⟩
  rintro v i p rfl rfl rfl
  rw [toNat_regS_derivePower, toNat_regQ_derivePower, sqrt_ideal_eq]
  refine ⟨?_, ?_, ?_⟩
  · rw [apparent]
    push_cast
    ring
  · exact div_le_div_of_nonneg_right (reactive_le_sqrt s) (by norm_num)
  · exact div_lt_div_of_pos_right (sqrt_lt_reactive_succ s) (by norm_num)

/-- Settles O29: the root of the clamped radicand at its extremes, and that DERIVE leaves what it reads. -/
theorem deriveCornerCases : Obligations.DeriveCornerCases := by
  intro s h hV hI hP
  have hinputs := inputsValid_of_bits hV hI hP
  refine ⟨derivePower s, exec_derive h hinputs, ?_, fun hzero => ?_, fun hfactor => ?_, ?_⟩
  · simpa using reactive_le_apparent s
  · exact congrArg (BitVec.ofNat 48) (reactive_of_regP_zero hzero)
  · exact congrArg (BitVec.ofNat 48) (reactive_of_apparent_le hfactor)
  · rw [exec_derive (by simpa using h) (by simpa using hinputs), derivePower_derivePower]

/-- Settles O30: each register of the Reading by its weight and valid bit; the others have no weight. -/
theorem scalerIsExact : Obligations.ScalerIsExact := by
  intro s
  refine ⟨?_, ?_, ?_, ?_, ?_, ?_, ?_, ?_, ?_⟩
  · exact physical_of_weight (k := 0) (content := s.regV) rfl rfl rfl (by decide)
  · exact physical_of_weight (k := 1) (content := s.regI) rfl rfl rfl (by decide)
  · exact physical_of_weight (k := 2) (content := s.regP) rfl rfl rfl (by decide)
  · exact physical_of_weight (k := 3) (content := s.regE) rfl rfl rfl (by decide)
  · exact physical_of_weight (k := 4) (content := s.regF) rfl rfl rfl (by decide)
  · exact physical_of_weight (k := 5) (content := s.regPF) rfl rfl rfl (by decide)
  · exact physical_of_weight (k := 6) rfl rfl (BitVec.setWidth_eq s.regS).symm le_rfl
  · exact physical_of_weight (k := 7) rfl rfl (BitVec.setWidth_eq s.regQ).symm le_rfl
  · rintro r (rfl | rfl | rfl | rfl | rfl) <;> exact physical_of_weight_none rfl

end Sys2Proof
end

section
/-! PROOFS. Which rows halt the block, and which it ignores while halted (spec/60_exceptions.md R184 to R186). -/

namespace Sys2Proof.Machine

@[simp] theorem halted_buildFrame (start count : Word16) (s : State) : (buildFrame start count s).halted = s.halted :=
  getLsbD_status_buildFrame s start count (by decide)

@[simp] theorem halted_receive (n : Word16) (bytes : List Byte) (s : State) : (receive n bytes s).halted = s.halted :=
  (halted_decodeRx n _).trans (halted_loadRx bytes s)

/-- An input of DERIVE is missing exactly when one of three bits of `STATUS` is 0 (R25, R169). -/
theorem inputsValid_eq_false_iff (s : State) :
    inputsValid s = false ↔
      s.status.getLsbD 8 = false ∨ s.status.getLsbD 9 = false ∨ s.status.getLsbD 10 = false := by
  rw [inputsValid_eq, Bool.and_eq_false_iff, Bool.and_eq_false_iff, or_assoc]

/-- The effect of a row leaves `ERR`, or is one of the two refusals of a decoded command (R184, R185). -/
theorem effectOf_halted_cases (i : Instr) (s : State) :
    (effectOf i s).halted = s.halted ∨
      (∃ start, i = .buildreq start 0 ∧ effectOf i s = refuse .badCount s) ∨
      (i = .derive ∧ inputsValid s = false ∧ effectOf i s = refuse .noInput s) := by
  cases i with
  | crcinit | crcbyte | setaddr | setcrcen | requestFrame => exact .inl rfl
  | rxclr => exact .inl (halted_clearRx s)
  | rxpush b => exact .inl (halted_pushRx b s)
  | decode n => exact .inl (halted_decodeRx n s)
  | responseN10 r => exact .inl (halted_receive 10 _ s)
  | responseN3 r => exact .inl (halted_receive 3 _ s)
  | buildreq start count =>
    by_cases hcount : count = 0
    · exact .inr (.inl ⟨start, by rw [hcount], if_pos hcount⟩)
    · exact .inl (by rw [effectOf, if_neg hcount, halted_buildFrame])
  | derive =>
    cases hin : inputsValid s with
    | false => exact .inr (.inr ⟨rfl, rfl, by rw [effectOf, hin]; rfl⟩)
    | true => exact .inl (by rw [effectOf, if_pos hin, halted_derivePower])

/-- No command word is the request frame: a word has five bytes, and the frame eight (R70, R76). -/
theorem decodeCommand_ne_requestFrame {w : CommandWord} {i : Instr} (h : decodeCommand w = .ok i) (f : RequestFrame) :
    i ≠ .requestFrame f := by
  rintro rfl
  have hlength : (encode (.requestFrame f)).length = (commandBytes w).length :=
    congrArg List.length (encode_of_decodeCommand h)
  exact absurd hlength (by simp [encode, requestFrameBytes, requestBody, wordBytes, commandBytes])

/-- A halted block ignores every command word, an instruction or not (R186). -/
theorem act_command_of_halted {s : State} (h : s.halted = true) (w : CommandWord) : act (.command w) s = .next s := by
  rw [act]
  cases hd : decodeCommand w with
  | ok i => exact exec_of_halted h i (decodeCommand_ne_requestFrame hd)
  | error e => exact accept_of_halted h _

end Sys2Proof.Machine
end

section
/-! PROOFS. The valid bits of a Reading with all eight fields (spec/10_state.md R25, R28). -/

namespace Sys2Proof.Machine

/-- With all of `VALID` 1, so is each of its bits in `STATUS` (R25). -/
theorem getLsbD_status_of_valid_all {s : State} (h : s.status.extractLsb' 8 8 = 0xFF) (k : Fin 8) :
    s.status.getLsbD (8 + k.val) = true := by
  have hones : ∀ j : Fin 8, (0xFF : Byte).getLsbD j.val = true := by decide
  have hk := hones k
  rw [← h] at hk
  simpa using hk

end Sys2Proof.Machine
end

section
/-! PROOFS. The statements about refusals and the host's payload (spec/60_exceptions.md). -/

namespace Sys2Proof

open Machine Statements

/-- Settles O33: from a block that accepts commands, a halted state can only be the effect of one of the two refusals. -/
theorem refusalsAreThese : Obligations.RefusalsAreThese := by
  intro i s t hexec hready hhalted
  rcases exec_cases hexec with rfl | rfl
  · simp [hready] at hhalted
  rcases effectOf_halted_cases i s with hkept | ⟨start, hi, heffect⟩ | ⟨hi, hmissing, heffect⟩
  · simp [hkept, hready] at hhalted
  · exact .inl ⟨start, hi, heffect ▸ refused_refuse s .badCount⟩
  · exact .inr ⟨hi, heffect ▸ refused_refuse s .noInput, (inputsValid_eq_false_iff s).1 hmissing⟩

/-- Settles O35: the word is taken off the host's list and ignored; an observation does not ask for `ERR`. -/
theorem haltedBlockIgnoresCommands : Obligations.HaltedBlockIgnoresCommands := by
  intro s h
  refine ⟨fun w rest hpending => ?_, fun l v rest => observationHasNoSideEffect s l v rest⟩
  rw [step_of_pending hpending]
  exact act_command_of_halted (s := s.setPending rest) h w

/-- Settles O31: with all eight valid bits 1 each field has its physical value, and the host rounds the last two. -/
theorem payloadCarriesReading : Obligations.PayloadCarriesReading := by
  intro deviceId timestamp s hvalid
  have hbit := getLsbD_status_of_valid_all hvalid
  obtain ⟨hV, hI, hP, hE, hF, hPF, hS, hQ, -⟩ := scalerIsExact s
  rw [payloadOf, hV.trans (if_pos (hbit 0)), hI.trans (if_pos (hbit 1)), hP.trans (if_pos (hbit 2)),
    hE.trans (if_pos (hbit 3)), hF.trans (if_pos (hbit 4)), hPF.trans (if_pos (hbit 5)), hS.trans (if_pos (hbit 6)),
    hQ.trans (if_pos (hbit 7))]

end Sys2Proof
end

section
/-! PROOFS. The sticky part of `STATUS`: what every write of the word but the reset's keeps (spec/70_reset_and_hazards.md
R210, spec/10_state.md R25). -/

namespace Sys2Proof.Machine

/-- From `st` to `st'` nothing that only the reset event takes back is taken back: a refusal and its code, a frame in `TX`,
an outcome (R210). -/
structure StickyKept (st st' : Word32) : Prop where
  err : stErr st = true → stErr st' = true ∧ stErrCode st' = stErrCode st
  txv : stTxv st = true → stTxv st' = true
  outcome : stOutcome st ≠ 0 → stOutcome st' ≠ 0

theorem StickyKept.refl (st : Word32) : StickyKept st st :=
  ⟨fun h => ⟨h, rfl⟩, id, id⟩

theorem StickyKept.trans {st st' st'' : Word32} (h : StickyKept st st') (h' : StickyKept st' st'') :
    StickyKept st st'' where
  err := fun herr =>
    have ⟨herr', hcode⟩ := h.err herr
    have ⟨herr'', hcode'⟩ := h'.err herr'
    ⟨herr'', hcode'.trans hcode⟩
  txv := h'.txv ∘ h.txv
  outcome := h'.outcome ∘ h.outcome

/-- A bit of `STATUS` that a command writes alone: `TXV`, which is only set, or `RXOVF`, which is not sticky
(spec/41_request.md R123, spec/42_decode.md R136, R137). -/
theorem stickyKept_putBit (st : Word32) {k : Nat} {b : Bool} (hk : k = 5 ∨ k = 6) (hset : k = 5 → b = true) :
    StickyKept st (putBit st k b) where
  err := fun h => ⟨(stErr_putBit st k b (by omega)).trans h, stErrCode_putBit st k b (by omega)⟩
  txv := fun h => by
    rw [stTxv, getLsbD_putBit]
    split
    · next hat => exact hset hat.1.symm
    · exact h
  outcome := (stOutcome_putBit st k b (by omega)).trans_ne

/-- Cause and valid bits are free, and so is the outcome while it is not written back to NONE (R138). -/
theorem stickyKept_putDecode (st : Word32) {o : BitVec 2} (ho : stOutcome st ≠ 0 → o ≠ 0) (c : BitVec 3) (m : BitVec 8) :
    StickyKept st (putDecode st o c m) where
  err := fun h => ⟨(stErr_putDecode st o c m).trans h, stErrCode_putDecode st o c m⟩
  txv := (stTxv_putDecode st o c m).trans
  outcome := (stOutcome_putDecode st o c m).trans_ne ∘ ho

/-- A first refusal has no earlier code to overwrite (spec/60_exceptions.md R184). -/
theorem stickyKept_putRefuse {st : Word32} (h : stErr st = false) (code : RefuseCode) :
    StickyKept st (putRefuse st code) where
  err := fun herr => absurd herr (Bool.eq_false_iff.1 h)
  txv := (stTxv_putRefuse st code).trans
  outcome := (stOutcome_putRefuse st code).trans_ne

section
variable (s : State)

theorem stickyKept_pushRx (b : Byte) : StickyKept s.status (pushRx b s).status := by
  rcases pushRx_cases b s with ⟨-, h⟩ | ⟨-, h⟩
  · rw [h]
    exact .refl s.status
  · rw [h]
    exact stickyKept_putBit s.status (.inr rfl) nofun

theorem stickyKept_loadRx (bytes : List Byte) : StickyKept s.status (loadRx bytes s).status := by
  rw [status_loadRx]
  exact stickyKept_putBit s.status (.inr rfl) nofun

/-- DECODE's outcome is NODATA or READING (R138). -/
theorem stickyKept_decodeRx (n : Word16) : StickyKept s.status (decodeRx n s).status := by
  cases hcause : decodeCause n s with
  | some c =>
    rw [status_decodeRx_of_some hcause]
    exact stickyKept_putDecode s.status (fun _ => by decide) _ _
  | none =>
    rw [status_decodeRx_of_none hcause]
    exact stickyKept_putDecode s.status (fun _ => by decide) _ _

/-- DERIVE writes valid bits alone (spec/43_scale_derive.md R169). -/
theorem stickyKept_derivePower : StickyKept s.status (derivePower s).status := by
  rw [derivePower, State.setStatus_status, putField_valid_eq_putDecode]
  exact stickyKept_putDecode s.status id _ _

theorem stickyKept_receive (n : Word16) (bytes : List Byte) : StickyKept s.status (receive n bytes s).status :=
  (stickyKept_loadRx s bytes).trans (stickyKept_decodeRx _ n)

end

section
variable {s t : State}

theorem stickyKept_refuse (h : s.halted = false) (code : RefuseCode) : StickyKept s.status (refuse code s).status :=
  stickyKept_putRefuse h code

/-- A row taken by a block that accepts commands. -/
theorem stickyKept_effectOf (h : s.halted = false) (i : Instr) : StickyKept s.status (effectOf i s).status := by
  cases i with
  | crcinit | crcbyte | setaddr | setcrcen | requestFrame => exact .refl s.status
  | buildreq start count =>
    rw [effectOf]
    split
    · exact stickyKept_refuse h .badCount
    · exact stickyKept_putBit s.status (.inl rfl) fun _ => rfl
  | rxclr => exact stickyKept_putBit s.status (.inr rfl) nofun
  | rxpush b => exact stickyKept_pushRx s b
  | decode n => exact stickyKept_decodeRx s n
  | derive =>
    rw [effectOf]
    split
    · exact stickyKept_derivePower s
    · exact stickyKept_refuse h .noInput
  | responseN10 r => exact stickyKept_receive s 10 _
  | responseN3 r => exact stickyKept_receive s 3 _

/-- A halted block changes nothing, so that only the effect on one that accepts commands is to be looked at (R186). -/
theorem stickyKept_accept {effect : State → State}
    (heffect : s.halted = false → StickyKept s.status (effect s).status) (ht : accept s effect = .next t) :
    StickyKept s.status t.status := by
  rcases accept_cases ht with ⟨-, rfl⟩ | ⟨hready, rfl⟩
  · exact .refl _
  · exact heffect hready

theorem stickyKept_exec {i : Instr} (ht : exec i s = .next t) : StickyKept s.status t.status := by
  by_cases hi : ∃ f, i = .requestFrame f
  · obtain ⟨f, rfl⟩ := hi
    rw [← Host.Outcome.next.inj ht]
    exact .refl s.status
  · rw [exec_eq_accept_effectOf (not_exists.1 hi)] at ht
    exact stickyKept_accept (fun hready => stickyKept_effectOf hready i) ht

/-- Every step that is not a reset (R210). -/
theorem stickyKept_step (hreset : ∀ rest, s.pending ≠ .reset :: rest) (ht : step s = .next t) :
    StickyKept s.status t.status := by
  rcases step_cases ht with ⟨-, rfl⟩ | ⟨a, rest, hpending, hact⟩
  · exact .refl _
  rcases hact with ⟨i, he⟩ | ⟨w, -, he⟩ | ⟨bytes, -, he⟩ | ⟨l, v, -, -, -, rfl⟩ | ⟨rfl, -⟩
  · exact stickyKept_exec (s := s.setPending rest) he
  · exact stickyKept_accept (s := s.setPending rest) (fun hready => stickyKept_refuse hready .illCmd) he
  · exact stickyKept_accept (s := s.setPending rest) (fun _ => stickyKept_loadRx _ bytes) he
  · exact .refl s.status
  · exact absurd hpending (hreset rest)

end

end Sys2Proof.Machine

namespace Sys2Proof

open Machine

/-- Settles O36: each clause is one field of what a step that is not a reset keeps of `STATUS`. -/
theorem onlyResetClearsStickyStatus : Obligations.OnlyResetClearsStickyStatus := by
  intro s t ht hreset
  obtain ⟨herr, htxv, houtcome⟩ := stickyKept_step hreset ht
  exact ⟨herr, htxv, houtcome⟩

end Sys2Proof
end

section
/-! PROOFS. Each action of the host on its own (spec/30_encoding.md R74): what a step does with an instruction's bytes, with
bytes that are none, and with an observation (spec/10_state.md R33, spec/93_implementation_defined.md U9, U10). -/

namespace Sys2Proof.Machine

section
variable {s : State} {l : Loc}

/-- The fault of an observation of an index the buffer does not have (spec/20_memory.md R50). -/
theorem observe_of_missing (h : l.exists s = false) : observe l s = .fault (.noSuchLocation l) := by
  simp [observe, h]

/-- The fault of an observation of a location that holds no value (log 12). -/
theorem observe_of_no_value (hexists : l.exists s = true) (hvalue : l.value s = none) :
    observe l s = .fault (.unspecifiedRead l) := by
  simp [observe, hexists, hvalue]

end

/-- A command word that decodes is executed. -/
theorem act_command_of_decoded {w : CommandWord} {i : Instr} (h : decodeCommand w = .ok i) (s : State) :
    act (.command w) s = exec i s := by
  rw [act, h]

/-- A frame that has a layout is executed as its row (logs 8 and 9). -/
theorem act_wire_of_decoded {bytes : List Byte} {i : Instr} (h : decodeFrame bytes = .ok i) (s : State) :
    act (.wire bytes) s = exec i s := by
  rw [act, h]

end Sys2Proof.Machine

namespace Sys2Proof

open Machine

/-- A command word, legal or not, is never where a step stops (R78). -/
theorem act_command_next (w : CommandWord) (s : State) : ∃ t, act (.command w) s = .next t := by
  cases h : decodeCommand w with
  | ok i =>
    rw [act_command_of_decoded h]
    exact everyInstructionCompletes i s
  | error e =>
    rw [act, h]
    exact accept_next s (refuse .illCmd)

/-- Nor are bytes on the wire, of a layout or of none. -/
theorem act_wire_next (bytes : List Byte) (s : State) : ∃ t, act (.wire bytes) s = .next t := by
  cases h : decodeFrame bytes with
  | ok i =>
    rw [act_wire_of_decoded h]
    exact everyInstructionCompletes i s
  | error e =>
    rw [act_stray h]
    exact accept_next s (loadRx bytes)

end Sys2Proof
end

section
/-! PROOFS. The statements about the host's actions and the step (spec/30_encoding.md R74, logs 2, 5, 7, 8, 10, 11, 12). -/

namespace Sys2Proof

open Machine Statements

/-- Settles O15: RXCLR writes `RXLEN` and one bit of `STATUS`, and no buffer. -/
theorem rxclrErasesNoByte : Obligations.RxclrErasesNoByte :=
  fun _ h => ⟨_, exec_rxclr h, rfl, rfl⟩

/-- Settles O38: the reset event takes `RXMAX` and the host's side over from the state it is given. -/
theorem resetKeepsHostSide : Obligations.ResetKeepsHostSide :=
  fun s rest h => ⟨resetBlock (s.setPending rest), step_of_pending h, rfl, rfl, rfl, rfl⟩

/-- Settles O41: the location is asked for after the action is taken off the host's list, which it does not depend on. -/
theorem unspecifiedObservationFaults : Obligations.UnspecifiedObservationFaults := by
  intro s l rest h
  rw [step_of_pending h, act]
  exact ⟨fun hmissing => observe_of_missing (by simpa using hmissing),
    fun hexists hvalue => observe_of_no_value (by simpa using hexists) (by simpa using hvalue)⟩

/-- Settles O43: the row's effect is one write of the line. -/
theorem requestFrameGoesToLine : Obligations.RequestFrameGoesToLine :=
  fun s f => exec_requestFrame f s

/-- Settles O50: the action at the head of the host's list is the one taken. -/
theorem stepRunsDecodedInstruction : Obligations.StepRunsDecodedInstruction := by
  refine fun s => ⟨fun w i rest hpending hdecode => ?_, fun bytes i rest hpending hdecode => ?_, fun hidle => ?_⟩
  · exact (step_of_pending hpending).trans (act_command_of_decoded hdecode _)
  · exact (step_of_pending hpending).trans (act_wire_of_decoded hdecode _)
  · rw [step, hidle]

/-- Settles O54: bytes of no layout are taken as RXLOAD of them, or ignored while the block is halted. -/
theorem strayBytesAreLoaded : Obligations.StrayBytesAreLoaded := by
  intro s bytes e rest hpending hdecode hwf
  have hstep : step s = accept (s.setPending rest) (loadRx bytes) :=
    (step_of_pending hpending).trans (act_stray hdecode _)
  have hovf := stRxOvf_loadRx bytes (s.setPending rest)
  constructor
  · intro hready
    exact ⟨_, hstep.trans (accept_of_ready (s := s.setPending rest) hready _), execAll_pseudoRxload bytes hready,
      rxBytes_loadRx bytes (s.setPending rest) hwf, (Bool.eq_iff_iff.1 hovf).trans decide_eq_true_iff⟩
  · intro hhalted
    exact hstep.trans (accept_of_halted (s := s.setPending rest) hhalted _)

/-- Settles O55: of the host's actions only an observation can stop the step, where its location does not exist or holds no
value. -/
theorem stepStopsOnlyOnUnspecifiedObservation : Obligations.StepStopsOnlyOnUnspecifiedObservation := by
  intro s
  cases hpending : s.pending with
  | nil => exact .inl ⟨s, by rw [step, hpending]⟩
  | cons a rest =>
    have hstep := step_of_pending hpending
    cases a with
    | command w => exact .inl (hstep ▸ act_command_next w _)
    | wire bytes => exact .inl (hstep ▸ act_wire_next bytes _)
    | reset => exact .inl ⟨_, hstep⟩
    | observe l =>
      obtain ⟨hnoLocation, hnoValue⟩ := unspecifiedObservationFaults s l rest hpending
      cases hexists : l.exists s with
      | false => exact .inr ⟨l, rest, rfl, .inl ⟨hexists, hnoLocation hexists⟩⟩
      | true =>
        cases hvalue : l.value s with
        | none => exact .inr ⟨l, rest, rfl, .inr ⟨hexists, hvalue, hnoValue hexists hvalue⟩⟩
        | some v => exact .inl ⟨_, observationHasNoSideEffect s l v rest hpending hexists hvalue⟩

end Sys2Proof
end

section
/-! PROOFS. A response handed over and decoded (spec/30_encoding.md R81, spec/60_exceptions.md R191): RXLOAD of exactly the
bytes its count asks for, and DECODE. -/

namespace Sys2Proof.Machine

/-- RXLOAD and DECODE as commands are `receive` (log 9). -/
theorem execAll_pseudoRxload_decode (n : Word16) (bytes : List Byte) {s : State} (h : s.halted = false) :
    execAll (pseudoRxload bytes ++ [.decode n]) s = .next (receive n bytes s) := by
  have hready : (loadRx bytes s).halted = false := (halted_loadRx bytes s).trans h
  rw [execAll_append (execAll_pseudoRxload bytes h), execAll_cons (exec_decode hready n)]
  rfl

/-- The first bytes received are the first of `RX`. -/
theorem take_rxBytes {s : State} {k : Nat} (hk : k ≤ s.rxlen.toNat) : (rxBytes s).take k = memRead s.rx 0 k := by
  rw [rxBytes, memRead, memRead, ← List.map_take, List.take_range, Nat.min_eq_left hk]

/-- Any response the block accepts fits the smallest buffer (spec/00_scope.md R7, spec/42_decode.md R135). -/
theorem minLen_le_rxMax {n : Word16} (hn : n = 3 ∨ n = 10) (s : State) : minLen n ≤ s.rxMax := by
  have hmin : minLen n ≤ 25 := by rcases hn with rfl | rfl <;> decide
  exact hmin.trans (State.rxMax_ge s)

/-- An outcome READING is observed as the Reading the state holds (R182). -/
theorem outcomeOf_eq_reading_iff {s : State} {r : Reading} :
    outcomeOf s = some (.reading r) ↔ stOutcome s.status = outcomeReading ∧ readingOf s = r := by
  unfold outcomeOf
  split
  · next hreading => simp [hreading]
  · next hother => split <;> simp [hother]

section
variable (n : Word16) (bytes : List Byte) (s : State)

/-- DECODE leaves the bytes in `RX` (R149). -/
@[simp] theorem rx_decodeRx : (decodeRx n s).rx = s.rx := by
  rw [decodeRx_writes]
  rfl

/-- A response handed over writes no bit of `STATUS` but those of RXLOAD and DECODE. -/
theorem getLsbD_status_receive_other {k : Nat} (hk : k = 5 ∨ k = 7 ∨ 16 ≤ k) :
    (receive n bytes s).status.getLsbD k = s.status.getLsbD k := by
  obtain ⟨o, c, m, hst⟩ := exists_status_decodeRx n (decodeCause n (loadRx bytes s))
  rw [receive, hst _ rfl, getLsbD_putDecode_other _ _ _ _ _ (by omega), status_loadRx,
    getLsbD_putBit_other _ _ _ (by omega)]

/-- It leaves the bytes of `RX` beyond its own (log 11). -/
theorem read_receive_of_ge {k : Nat} (hk : bytes.length ≤ k) :
    Memory.read (receive n bytes s).rx k = Memory.read s.rx k := by
  rw [receive, rx_decodeRx, read_loadRx_of_ge bytes s hk]

/-- With the policy off it leaves `CRC` (R147). -/
theorem crc_receive_of_policy_off (hoff : cfgCrcEn s.cfg = false) : (receive n bytes s).crc = s.crc := by
  rw [receive, crc_decodeRx_of_policy_off n _ (by rwa [cfg_loadRx]), loadRx_writes]

end

section
variable {n : Word16} {bytes : List Byte} {s : State}
variable (hn : n = 3 ∨ n = 10) (hlen : bytes.length = minLen n)
include hn hlen

/-- A response as long as its count asks for does not overrun the buffer. -/
theorem stRxOvf_loadRx_response : stRxOvf (loadRx bytes s).status = false := by
  rw [stRxOvf_loadRx, hlen, decide_eq_false (minLen_le_rxMax hn s).not_gt]

theorem stRxOvf_receive : stRxOvf (receive n bytes s).status = false := by
  rw [receive, stRxOvf_decodeRx, stRxOvf_loadRx_response hn hlen]

variable (hwf : Memory.wf s.rx = true)
include hwf

theorem rxBytes_loadRx_response : rxBytes (loadRx bytes s) = bytes := by
  rw [rxBytes_loadRx bytes s hwf, List.take_of_length_le (hlen.trans_le (minLen_le_rxMax hn s))]

theorem rxBytes_receive : rxBytes (receive n bytes s) = bytes := by
  rw [receive, rxBytes_decodeRx, rxBytes_loadRx_response hn hlen hwf]

theorem toNat_rxlen_loadRx_response : (loadRx bytes s).rxlen.toNat = bytes.length := by
  simpa [rxBytes] using congrArg List.length (rxBytes_loadRx_response hn hlen hwf)

/-- It passes the tests before the checksum (R138). -/
theorem earlyCause_loadRx_response : earlyCause n (loadRx bytes s) = none :=
  earlyCause_of_passes hn (stRxOvf_loadRx_response hn hlen)
    (by rw [toNat_rxlen_loadRx_response hn hlen hwf, hlen])

/-- With the policy on, the checksum of all its bytes but the last two is left in `CRC` (R147). -/
theorem crc16_receive_of_policy_on (hon : cfgCrcEn s.cfg = true) :
    crc16 (bytes.take (bytes.length - 2)) = some (receive n bytes s).crc := by
  have hearly := earlyCause_loadRx_response hn hlen hwf
  have hsum := crc16_of_early_none hearly
  rw [← take_rxBytes (Nat.sub_le _ _), rxBytes_loadRx_response hn hlen hwf,
    toNat_rxlen_loadRx_response hn hlen hwf] at hsum
  rw [hsum, receive, crc_decodeRx_of_policy_on hearly (by rwa [cfg_loadRx])]

/-- Unless the policy is on and its trailer wrong, it gives a Reading (R138). -/
theorem decodeCause_loadRx_of_accepted (h : cfgCrcEn s.cfg = false ∨ crcOk bytes = true) :
    decodeCause n (loadRx bytes s) = none := by
  refine decodeCause_of_crcOk (earlyCause_loadRx_response hn hlen hwf) fun hon => ?_
  rw [cfg_loadRx] at hon
  rw [rxBytes_loadRx_response hn hlen hwf]
  exact h.resolve_left (by simp [hon])

/-- Its outcome is then READING, with no cause, and the Reading that of its bytes (R146). -/
theorem reading_receive_of_accepted (h : cfgCrcEn s.cfg = false ∨ crcOk bytes = true) :
    (receive n bytes s).status.extractLsb' 0 5 = 1 ∧
      readingOf (receive n bytes s) = if n = 10 then readingTen bytes else readingThree bytes := by
  have hcause := decodeCause_loadRx_of_accepted hn hlen hwf h
  obtain ⟨-, hreading⟩ := outcomeOf_eq_reading_iff.1 (outcomeOf_decodeRx_of_none hcause)
  rw [rxBytes_loadRx_response hn hlen hwf] at hreading
  refine ⟨?_, hreading⟩
  rw [receive, status_decodeRx_of_none hcause, extract_outcome_cause_putDecode]
  rfl

/-- With the policy on and its trailer wrong it gives "no data" (spec/60_exceptions.md R181). -/
theorem outcomeOf_receive_of_wrong_trailer (hon : cfgCrcEn s.cfg = true) (hwrong : crcOk bytes = false) :
    outcomeOf (receive n bytes s) = some (.noData .crcFail) := by
  have hearly := earlyCause_loadRx_response hn hlen hwf
  refine outcomeOf_decodeRx_of_some ?_
  rw [decodeCause_of_early_none hearly, trailerMatches_eq_crcOk (three_le_rxlen_of_early_none hearly),
    rxBytes_loadRx_response hn hlen hwf, cfg_loadRx, hon, hwrong]
  rfl

end

/-- What a response of as many bytes as its count asks for leaves in `t` of `s`, whatever its layout. -/
structure ResponseTaken (n : Word16) (bytes : List Byte) (s t : State) : Prop where
  run : execAll (pseudoRxload bytes ++ [.decode n]) s = .next t
  received : rxBytes t = bytes
  noOverflow : stRxOvf t.status = false
  kept : ∀ k, k = 5 ∨ k = 7 ∨ 16 ≤ k → t.status.getLsbD k = s.status.getLsbD k
  accepted : cfgCrcEn s.cfg = false ∨ crcOk bytes = true →
    t.status.extractLsb' 0 5 = 1 ∧ readingOf t = if n = 10 then readingTen bytes else readingThree bytes
  rejected : cfgCrcEn s.cfg = true ∧ crcOk bytes = false → outcomeOf t = some (.noData .crcFail)
  policyOff : cfgCrcEn s.cfg = false → t.crc = s.crc
  policyOn : cfgCrcEn s.cfg = true → crc16 (bytes.take (bytes.length - 2)) = some t.crc
  beyond : ∀ k, bytes.length ≤ k → Memory.read t.rx k = Memory.read s.rx k

/-- RXLOAD and DECODE leave it, on a block that accepts commands. -/
theorem responseTaken_receive {n : Word16} {bytes : List Byte} {s : State} (hn : n = 3 ∨ n = 10)
    (hlen : bytes.length = minLen n) (h : s.halted = false) (hwf : Memory.wf s.rx = true) :
    ResponseTaken n bytes s (receive n bytes s) where
  run := execAll_pseudoRxload_decode n bytes h
  received := rxBytes_receive hn hlen hwf
  noOverflow := stRxOvf_receive hn hlen
  kept := fun _ => getLsbD_status_receive_other n bytes s
  accepted := reading_receive_of_accepted hn hlen hwf
  rejected := fun ⟨hon, hwrong⟩ => outcomeOf_receive_of_wrong_trailer hn hlen hwf hon hwrong
  policyOff := crc_receive_of_policy_off n bytes s
  policyOn := crc16_receive_of_policy_on hn hlen hwf
  beyond := fun _ => read_receive_of_ge n bytes s

/-- The Reading of a ten-register response by the fields of its layout (spec/30_encoding.md R72). -/
theorem readingTen_responseN10Bytes (r : ResponseN10) :
    readingTen (responseN10Bytes r) =
      ⟨some r.volt, some (r.currHi ++ r.currLo), some (r.powerHi ++ r.powerLo), some (r.energyHi ++ r.energyLo),
        some r.freq, some r.factor, none, none⟩ := by
  simp [readingTen, fieldV, fieldI, fieldP, fieldE, fieldF, fieldPF, il32, be16, byteAt, responseN10Bytes, headerBytes,
    wordBytes, append_extract_word]

/-- The Reading of a three-register response by the fields of its layout (R72). -/
theorem readingThree_responseN3Bytes (r : ResponseN3) :
    readingThree (responseN3Bytes r) =
      ⟨some r.volt, some (r.currHi ++ r.currLo), none, none, none, none, none, none⟩ := by
  simp [readingThree, fieldV, fieldI, il32, be16, byteAt, responseN3Bytes, headerBytes, wordBytes, append_extract_word]

end Sys2Proof.Machine
end

section
/-! PROOFS. The statements about the responses on the wire (spec/30_encoding.md R72, logs 9, 11, 12). -/

namespace Sys2Proof

open Machine Statements

/-- Settles O44: the row is `receive 10` of its 25 bytes, as the commands are, and its Reading that of the layout's
fields. -/
theorem responseN10IsLoadedAndDecoded : Obligations.ResponseN10IsLoadedAndDecoded := by
  intro s r h hwf
  have hexec := exec_responseN10 h r
  obtain ⟨hrun, hreceived, hovf, hkept, haccepted, hrejected, hoff, hon, hbeyond⟩ :=
    responseTaken_receive (.inr rfl) (length_responseN10Bytes r) h hwf
  rw [if_pos rfl, readingTen_responseN10Bytes] at haccepted
  rw [length_responseN10Bytes] at hon hbeyond
  exact ⟨_, hexec, hrun, hreceived, hovf, hkept, haccepted, hrejected, hoff, hon, hbeyond, exec_writes hexec⟩

/-- Settles O45: the row is `receive 3` of its 11 bytes, as the commands are, and its Reading that of the layout's
fields. -/
theorem responseN3IsLoadedAndDecoded : Obligations.ResponseN3IsLoadedAndDecoded := by
  intro s r h hwf
  have hexec := exec_responseN3 h r
  obtain ⟨hrun, hreceived, hovf, hkept, haccepted, hrejected, hoff, hon, hbeyond⟩ :=
    responseTaken_receive (.inl rfl) (length_responseN3Bytes r) h hwf
  rw [if_neg (by decide), readingThree_responseN3Bytes] at haccepted
  rw [length_responseN3Bytes] at hon hbeyond
  exact ⟨_, hexec, hrun, hreceived, hovf, hkept, haccepted, hrejected, hoff, hon, hbeyond, exec_writes hexec⟩

end Sys2Proof
end

section
/-! PROOFS. The end of a polling cycle (spec/60_exceptions.md R190, R191): which outcomes are followed by a DERIVE, and what
it adds to the Reading (spec/43_scale_derive.md R169). -/

namespace Sys2Proof.Machine

section
variable {s : State}

/-- A field that holds a value is one whose valid bit is 1 (spec/10_state.md R28). -/
theorem ifValid_eq_some_iff {n : Nat} {r : Reg} {content v : BitVec n} :
    ifValid r s content = some v ↔ r.valid s = true ∧ content = v := by
  simp [ifValid]

theorem ifValid_eq_none_iff {n : Nat} {r : Reg} {content : BitVec n} :
    ifValid r s content = none ↔ r.valid s = false := by
  simp [ifValid]

/-- After "no data" there is nothing to derive. -/
theorem pollDerive_of_noData {c : Cause} (h : outcomeOf s = some (.noData c)) : pollDerive s = [] := by
  refine if_neg fun ⟨hreading, _⟩ => ?_
  rw [outcomeOf_eq_reading_iff.2 ⟨hreading, rfl⟩] at h
  cases h

/-- Nor is there after a Reading without a power. -/
theorem pollDerive_of_no_power {r : Reading} (h : outcomeOf s = some (.reading r)) (hp : r.p = none) :
    pollDerive s = [] := by
  obtain ⟨-, rfl⟩ := outcomeOf_eq_reading_iff.1 h
  have hinvalid : Reg.valid .p s = false := ifValid_eq_none_iff.1 hp
  exact if_neg fun ⟨_, hvalid⟩ => by simp [hinvalid] at hvalid

/-- A Reading with a power is followed by DERIVE. -/
theorem pollDerive_of_power {r : Reading} {p : Word32} (h : outcomeOf s = some (.reading r)) (hp : r.p = some p) :
    pollDerive s = [.derive] := by
  obtain ⟨hreading, rfl⟩ := outcomeOf_eq_reading_iff.1 h
  obtain ⟨hvalid, -⟩ := ifValid_eq_some_iff.1 hp
  exact if_pos ⟨hreading, hvalid⟩

@[simp] theorem stOutcome_derivePower : stOutcome (derivePower s).status = stOutcome s.status := by
  rw [derivePower, State.setStatus_status, putField_valid_eq_putDecode, stOutcome_putDecode]

@[simp] theorem stValid_putField (st : Word32) (m : BitVec 8) : stValid (putField st 8 m) = m :=
  extract_putField_same st 8 m (by decide)

/-- DERIVE adds `S` and `Q` to the Reading (R28, R169). -/
theorem readingOf_derivePower :
    readingOf (derivePower s) =
      { readingOf s with s := some (derivePower s).regS, q := some (derivePower s).regQ } := by
  simp [readingOf, ifValid, Reg.valid, Reg.validBit, validDerived, derivePower]

end

/-- What reaches the sink for an outcome decoded: "no data" and a three-register Reading as they are, and a ten-register
Reading with the apparent and reactive power of its own `V`, `I` and `P` (R169, R191). -/
def SinkOutcome (n : PollCount) (decoded o : PollOutcome) : Prop :=
  match decoded with
  | .noData c => o = .noData c
  | .reading r =>
    (n = .three → o = .reading r) ∧
    (n = .ten → ∃ v i p sv qv, r.v = some v ∧ r.i = some i ∧ r.p = some p ∧
      sv.toNat = v.toNat * i.toNat ∧
      ((qv.toNat : Int) * qv.toNat ≤
        max ((sv.toNat : Int) * sv.toNat - 1000000 * ((p.toNat : Int) * p.toNat)) 0) ∧
      (max ((sv.toNat : Int) * sv.toNat - 1000000 * ((p.toNat : Int) * p.toNat)) 0 <
        ((qv.toNat : Int) + 1) * (qv.toNat + 1)) ∧
      o = .reading { r with s := some sv, q := some qv })

/-- The Reading DERIVE leaves is the one a ten-register cycle hands over. -/
theorem sinkOutcome_derivePower {s : State} {r : Reading} (h : outcomeOf s = some (.reading r)) {v : Word16}
    {i p : Word32} (hv : r.v = some v) (hi : r.i = some i) (hp : r.p = some p) :
    inputsValid s = true ∧ ∃ o, outcomeOf (derivePower s) = some o ∧ SinkOutcome .ten (.reading r) o := by
  obtain ⟨hreading, rfl⟩ := outcomeOf_eq_reading_iff.1 h
  obtain ⟨hvalidV, rfl⟩ := ifValid_eq_some_iff.1 hv
  obtain ⟨hvalidI, rfl⟩ := ifValid_eq_some_iff.1 hi
  obtain ⟨hvalidP, rfl⟩ := ifValid_eq_some_iff.1 hp
  obtain ⟨hle, hlt⟩ := reactive_spec s
  refine ⟨by simp [inputsValid, hvalidV, hvalidI, hvalidP], _,
    outcomeOf_eq_reading_iff.2 ⟨stOutcome_derivePower.trans hreading, readingOf_derivePower⟩, nofun, fun _ => ?_⟩
  refine ⟨_, _, _, _, _, hv, hi, hp, toNat_regS_derivePower s, ?_, ?_, rfl⟩
  · rwa [toNat_regS_derivePower, toNat_regQ_derivePower]
  · rwa [toNat_regS_derivePower, toNat_regQ_derivePower]

/-- A poll asks for a count DECODE admits (spec/41_request.md R125). -/
theorem PollCount.word_admitted (n : PollCount) : n.word = 3 ∨ n.word = 10 := by
  cases n with
  | three => exact .inl rfl
  | ten => exact .inr rfl

/-- The loop after a tick: the request built, and put on the line (R191). -/
def PollLoop.afterTick (n : PollCount) (L : PollLoop) : PollLoop :=
  ⟨.polling, (buildFrame 0 n.word L.block).setLine (memRead (buildFrame 0 n.word L.block).tx 0 8), L.sink⟩

@[simp] theorem PollLoop.halted_afterTick (n : PollCount) (L : PollLoop) :
    (L.afterTick n).block.halted = L.block.halted :=
  halted_buildFrame 0 n.word L.block

/-- The line then holds the request of R120. -/
theorem PollLoop.line_afterTick (n : PollCount) {L : PollLoop} (hwf : Memory.wf L.block.tx = true) :
    (L.afterTick n).block.line = buildRequest (cfgAddr L.block.cfg) 0 n.word :=
  memRead_buildFrame hwf 0 n.word

section
variable {n : PollCount} {L : PollLoop} (h : L.block.halted = false)
include h

/-- A block that accepts commands takes the tick's BUILDREQ, whose count is never 0. -/
theorem pollTick_of_ready : pollTick n L = .next (L.afterTick n) := by
  have hcount : n.word ≠ 0 := by cases n <;> decide
  have hready : (buildFrame 0 n.word L.block).halted = false := (halted_buildFrame _ _ _).trans h
  rw [pollTick, execAll_cons (exec_buildreq h hcount)]
  exact if_neg (Bool.eq_false_iff.1 hready)

/-- The bytes decoded, what is derived of them in `u`, and its outcome handed over (R191). -/
theorem pollArrived_of_derived {bytes : List Byte} {u : State} {o : PollOutcome}
    (hderive : execAll (pollDerive (receive n.word bytes L.block)) (receive n.word bytes L.block) = .next u)
    (hready : u.halted = false) (ho : outcomeOf u = some o) :
    pollArrived n bytes L = .next ⟨.idle, u, o :: L.sink⟩ := by
  have hrun : execAll (pollDecode n bytes) L.block = .next (receive n.word bytes L.block) :=
    execAll_pseudoRxload_decode n.word bytes h
  simp [pollArrived, hrun, hderive, pollHandOver, hready, ho]

/-- Whatever bytes arrive, the cycle ends with one outcome more, made of the one decoded. -/
theorem pollArrived_of_ready (bytes : List Byte) :
    ∃ u decoded o, pollArrived n bytes L = .next ⟨.idle, u, o :: L.sink⟩ ∧ u.halted = false ∧
      outcomeOf (receive n.word bytes L.block) = some decoded ∧ SinkOutcome n decoded o := by
  have hready : (receive n.word bytes L.block).halted = false := (halted_receive _ _ _).trans h
  have kept {o : PollOutcome} (ho : outcomeOf (receive n.word bytes L.block) = some o)
      (hnone : pollDerive (receive n.word bytes L.block) = []) :
      pollArrived n bytes L = .next ⟨.idle, receive n.word bytes L.block, o :: L.sink⟩ :=
    pollArrived_of_derived h (by rw [hnone]; rfl) hready ho
  cases hcause : decodeCause n.word (loadRx bytes L.block) with
  | some c =>
    have hdecoded : outcomeOf (receive n.word bytes L.block) = _ := outcomeOf_decodeRx_of_some hcause
    exact ⟨_, _, _, kept hdecoded (pollDerive_of_noData hdecoded), hready, hdecoded, rfl⟩
  | none =>
    have hdecoded : outcomeOf (receive n.word bytes L.block) = _ := outcomeOf_decodeRx_of_none hcause
    cases n with
    | three =>
      exact ⟨_, _, _, kept hdecoded (pollDerive_of_no_power hdecoded rfl), hready, hdecoded, fun _ => rfl, nofun⟩
    | ten =>
      obtain ⟨hinputs, o, ho, hsink⟩ := sinkOutcome_derivePower hdecoded rfl rfl rfl
      refine ⟨_, _, o, pollArrived_of_derived h ?_ ((halted_derivePower _).trans hready) ho,
        (halted_derivePower _).trans hready, hdecoded, hsink⟩
      rw [pollDerive_of_power hdecoded rfl]
      exact execAll_cons (exec_derive hready hinputs) []

end

/-- RXLOAD and DECODE with an admitted count agree with the pure decoder, and are an overrun when the bytes do not fit
(spec/42_decode.md R146, R181). -/
theorem outcomeOf_receive {n : Word16} (hn : n = 3 ∨ n = 10) (bytes : List Byte) {s : State}
    (hwf : Memory.wf s.rx = true) :
    outcomeOf (receive n bytes s) =
      some (if s.rxMax < bytes.length then .noData .overrun else decodeResponse bytes n (cfgCrcEn s.cfg)) := by
  have hovf := stRxOvf_loadRx bytes s
  split
  · next hmore => exact outcomeOf_decodeRx_of_overrun hn (hovf.trans (decide_eq_true hmore))
  · next hfits =>
    rw [receive, outcomeOf_decodeRx (hovf.trans (decide_eq_false hfits)), rxBytes_loadRx bytes s hwf,
      List.take_of_length_le (not_lt.1 hfits), cfg_loadRx]

end Sys2Proof.Machine
end

section
/-! PROOFS. The statement about the polling loop (spec/60_exceptions.md R190, R191; log 17). -/

namespace Sys2Proof

open Machine

/-- Settles O53: the tick is BUILDREQ and a write of the line; the outcome handed over is made of the one decoded, which is
an overrun or that of the pure decoder. -/
theorem pollCycleProducesOneOutcome : Obligations.PollCycleProducesOneOutcome := by
  intro n bytes L hidle h hrx htx
  have htick : pollStep n .tick L = .next (L.afterTick n) := by
    obtain ⟨phase, block, sink⟩ := L
    subst hidle
    exact pollTick_of_ready h
  obtain ⟨u, decoded, o, harrived, hready, hdecoded, hsink⟩ :=
    pollArrived_of_ready (n := n) ((L.halted_afterTick n).trans h) bytes
  have houtcome := outcomeOf_receive (s := (L.afterTick n).block) n.word_admitted bytes hrx
  have hdecoder := Option.some.inj (hdecoded.symm.trans houtcome)
  refine ⟨_, _, o, htick, rfl, rfl, PollLoop.line_afterTick n htx, harrived, rfl, rfl, hready, fun hmore => ?_,
    fun hfits => ?_⟩
  · rwa [hdecoder.trans (if_pos hmore)] at hsink
  · have hpure := hdecoder.trans (if_neg hfits.not_gt)
    constructor
    · intro c hc
      rwa [hpure.trans hc] at hsink
    · intro r hr
      rwa [hpure.trans hr] at hsink

end Sys2Proof
end
